-- ==== Sys2Proof/Word.lean ====
section
/-! DEFINITION. The two value types of the block: the 64-bit word of every datapath value and the byte of the
input buffer (00_scope.md R6 `XLEN`, R8). -/

namespace Sys2Proof

/-- A 64-bit unsigned bit pattern, bit 0 the least significant (00_scope.md R8). -/
abbrev Word := BitVec 64

/-- One byte of the input buffer or of the output byte view. -/
abbrev Byte := BitVec 8

end Sys2Proof
end

