-- ==== Sys2Proof/Config.lean ====
section
/-! DEFINITION. What is fixed for the block: the seven constants of 00_scope.md R7 under their names (printed values,
92_eei_decisions.md D32, log 13), the sizes of R6 that the machine uses, and the FREE VALUES the spec leaves open
(no body: nothing can be proved about the value of one). -/

namespace Sys2Proof.Config

/-- `GOLDEN_RATIO_64` (00_scope.md R7). UNVERIFIED (log 13). -/
def G : Word := 0x9e3779b97f4a7c15#64

/-- Multiplier of the full-word round (R7). UNVERIFIED (log 13). -/
def M1 : Word := 0x3c79ac492ba7b653#64

/-- Multiplier of the tail round (R7). UNVERIFIED (log 13). -/
def M2 : Word := 0x1c69b3f74ac4ae35#64

/-- First finaliser multiplier (R7). UNVERIFIED (log 13). -/
def F1 : Word := 0xff51afd7ed558ccd#64

/-- Second finaliser multiplier (R7). UNVERIFIED (log 13). -/
def F2 : Word := 0xc4ceb9fe1a85ec53#64

/-- Fixed seed of the SeedGenerator (R7). UNVERIFIED (log 13). -/
def KSEED : Word := 0x1234567890abcdef#64

/-- Rotation of the full-word round (R7). -/
def rot1 : Nat := 27

/-- Rotation of the tail round (R7). -/
def rot2 : Nat := 31

/-- Shift of the finaliser (R7). -/
def shr : Nat := 33

/-- `WORD_BYTES`: bytes absorbed per full-word round (R6). -/
def wordBytes : Nat := 8

/-- `OUT_BYTES` as the six bits of OUTLEN: the length of a present output sequence (R6, 10_state.md R27). -/
def outBytes : BitVec 6 := 32#6

/-- FREE VALUE (log 4): the n-th value drawn from `time_in` when no `.time` directive announced one. `TIME_SOURCE` is
OPEN: no unit, no epoch, no monotonicity (00_scope.md R6, 43_time_seed_generator.md R171, 93 U2). -/
opaque timeSource : Nat → Word

/-- FREE VALUE (log 3): `ACC` after the reset that is draw n ("unspecified: any 64-bit value", 10_state.md R40). -/
opaque resetAcc : Nat → Word

/-- FREE VALUE (log 3): `IDX` after the reset that is draw n (10_state.md R40). -/
opaque resetIdx : Nat → Word

/-- FREE VALUE (log 3): `CUR` after the reset that is draw n (10_state.md R40). -/
opaque resetCur : Nat → BitVec 8

/-- FREE VALUE (log 3): `TS` after the reset that is draw n (10_state.md R40). -/
opaque resetTs : Nat → Word

end Sys2Proof.Config
end

