-- ==== Sys2Proof/Machine/Arith.lean ====
section
/-! DEFINITION. The six arithmetic primitives on 64-bit values modulo 2^64 (40_arith_xor_tree.md R100 to R106). They write
no flag and raise nothing (R108). The `64bit_xor_tree` is `xor64`: two 64-bit operands, one 64-bit result (R107). -/

namespace Sys2Proof.Machine

/-- R101. -/
def xor64 (a b : Word) : Word := a ^^^ b

/-- R102: the logical right shift. -/
def shr64 (a : Word) (n : Nat) : Word := a >>> n

/-- R103: the left rotation. PRESUMED (log 11): the source names it and does not define it (93 G1). -/
def rotl64 (a : Word) (n : Nat) : Word := (a <<< n) ||| (a >>> (64 - n))

/-- R104: the low 64 bits of the product. -/
def mul64 (a b : Word) : Word := a * b

/-- R105: the sum, its carry discarded. -/
def add64 (a b : Word) : Word := a + b

/-- R106. -/
def xorshift33 (a : Word) : Word := xor64 a (shr64 a Config.shr)

end Sys2Proof.Machine
end

