-- ==== Sys2Proof/Syntax.lean ====
section
/-! DEFINITION. What is written down: the five commands (30_encoding.md R83), the fields of the one format C8 (R81), the
moves of the agents around and inside the block (R87, 44_sequencer.md R185), and the statements of a host script
(R88 to R90). -/

namespace Sys2Proof

/-- The commands of `SQUID-CORE/1`, one constructor per row of spec/opcode_table.json. None has an operand field: the
operands are registers, the input buffer and constants (30_encoding.md R80, R84). -/
inductive Instr where
  /-- `MIX` (41_mixer.md R134). -/
  | mix
  /-- `EXPAND` (42_digest_expander.md R154). -/
  | expand
  /-- `HASHMIX` (42_digest_expander.md R155). -/
  | hashmix
  /-- `HASHMIX.A` (42_digest_expander.md R156). -/
  | hashmixA
  /-- `SEEDGEN` (43_time_seed_generator.md R174). -/
  | seedgen
  deriving DecidableEq, Repr

/-- The 64 bits of the write data of `WR(0x0, v)`, cut as 30_encoding.md R81 and R82 name them. -/
structure Fields where
  /-- `c[2:0]`, the operation. -/
  op : BitVec 3
  /-- `c[3]`, the absent-input flag. -/
  abs : BitVec 1
  /-- `c[7:4]`, must be 0000. -/
  zero : BitVec 4
  /-- `v[63:8]`, must be 0. -/
  upper : BitVec 56
  deriving DecidableEq, Repr

/-- Why a 64-bit value is no command word: the classes of 30_encoding.md R85. They have one effect on the block; which
class is named when several apply is the decoder's order (log 18). -/
inductive Illegal where
  /-- "upper write data not 0". -/
  | upperData
  /-- "`zero` field not 0". -/
  | zeroField
  /-- "`op = 0`": no operation 0. -/
  | noOperation
  /-- "`op = 5, 6, 7`": reserved operations. -/
  | reservedOperation
  /-- "`abs = 1` with `op` other than 3". -/
  | absentFlag
  deriving DecidableEq, Repr

/-- One atomic action of an agent: a host transaction (30_encoding.md R87), the reset event (70 R240), the host filling
its buffer (10_state.md R38), the platform driving `time_in` (43 R171), or the sequencer's turn (44 R185). -/
inductive Move where
  /-- `WR(idx, v)`. -/
  | write (idx : BitVec 4) (v : Word)
  /-- `RD(idx)`. -/
  | read (idx : BitVec 4)
  /-- The polling loop `wait` of 30_encoding.md R90: read STATUS until bit 0 is clear. -/
  | wait
  /-- The sequencer's turn: one step of the reference schedule if the block is busy, nothing if it is idle. -/
  | sequencer
  /-- An internal step of another schedule that completes no reference step (44_sequencer.md R199). -/
  | stall
  /-- The reset event `rst`. -/
  | reset
  /-- The host stores one byte of its input buffer. -/
  | buffer (a : Word) (b : Byte)
  /-- The platform announces the value `time_in` presents at the next sample (30_encoding.md R89). -/
  | clock (t : Word)
  deriving DecidableEq, Repr

/-- The register names of 10_state.md R20. -/
inductive Reg where
  | CMD | STATUS | SEED | LEN | DIGEST | TIME | OUTLEN | OUT0 | OUT1 | OUT2 | OUT3
  deriving DecidableEq, Repr

/-- Where a script statement takes a register it also takes a bare index (30_encoding.md R88). -/
inductive RegRef where
  | named (r : Reg)
  | index (i : BitVec 4)
  deriving DecidableEq, Repr

/-- The statements, directives and pseudo-instructions of a host script (30_encoding.md R88, R89, R90). A fingerprint is
the signed 64-bit integer of the call boundary. -/
inductive Stmt where
  | wr (r : RegRef) (v : Word)
  | rd (r : RegRef)
  | mix
  | expand
  | hashmix
  | hashmixA
  | seedgen
  | cmd (v : Word)
  | clr (v : Word)
  | rst
  | ib (bytes : List Byte)
  | time (t : Word)
  | steps (n : Nat)
  | wait
  | customhashmix (fp : Int) (n : Word)
  | customhashmixAbsent (fp : Int)
  | gethardwareseed
  deriving DecidableEq, Repr

end Sys2Proof
end

