-- ==== Sys2Proof/WellFormed.lean ====
section
/-! DEFINITION. When the fields of a written word make a command word: one check per clause of 30_encoding.md R81, R82
and R85. -/

namespace Sys2Proof

/-- "`v[63:8]` must all be zero" (30_encoding.md R82). -/
def Fields.upperOk (f : Fields) : Bool := f.upper == 0

/-- The `zero` field "must be `0000`" (R81). -/
def Fields.zeroOk (f : Fields) : Bool := f.zero == 0

/-- `op` is one of 1 to 4; "0, 5, 6, 7 illegal" (R81). -/
def Fields.opOk (f : Fields) : Bool := f.op == 1 || f.op == 2 || f.op == 3 || f.op == 4

/-- `abs` is "legal as 1 only with `op = 3`" (R81). -/
def Fields.absOk (f : Fields) : Bool := f.abs == 0 || f.op == 3

/-- All four checks. -/
def Fields.wellFormed (f : Fields) : Bool := f.upperOk && f.zeroOk && f.opOk && f.absOk

end Sys2Proof
end

