-- ==== Sys2Proof/Decode.lean ====
section
/-! DEFINITION. The decoder of the 64-bit write data of `WR(0x0, v)`, total, refusing by name (30_encoding.md R82, R83,
R85), and the encoder written from the same table. -/

namespace Sys2Proof

/-- The write data cut into its fields (30_encoding.md R81, R82). -/
def fieldsOf (v : Word) : Fields where
  op := v.extractLsb' 0 3
  abs := v.extractLsb' 3 1
  zero := v.extractLsb' 4 4
  upper := v.extractLsb' 8 56

/-- The operation and the absent flag select the command (30_encoding.md R81, R83); used when the reserved bits are 0. -/
def decodeOp (op : BitVec 3) (abs : BitVec 1) : Except Illegal Instr :=
  if op = 0 then .error .noOperation
  else if op = 5 ∨ op = 6 ∨ op = 7 then .error .reservedOperation
  else if abs = 1 then (if op = 3 then .ok .hashmixA else .error .absentFlag)
  else if op = 1 then .ok .mix
  else if op = 2 then .ok .expand
  else if op = 3 then .ok .hashmix
  else .ok .seedgen

/-- The command a 64-bit write to `CMD` names, or the class of illegal word it is (30_encoding.md R82, R83, R85). -/
def decode (v : Word) : Except Illegal Instr :=
  if (fieldsOf v).upperOk then
    if (fieldsOf v).zeroOk then decodeOp (fieldsOf v).op (fieldsOf v).abs
    else .error .zeroField
  else .error .upperData

/-- The 8-bit command word `c[7:0]` of a command (30_encoding.md R83). -/
def encode : Instr → BitVec 8
  | .mix => 0b00000001#8
  | .expand => 0b00000010#8
  | .hashmix => 0b00000011#8
  | .hashmixA => 0b00001011#8
  | .seedgen => 0b00000100#8

/-- The write data that carries a command word: `v[7:0] = c`, `v[63:8] = 0` (30_encoding.md R82). -/
def carrier (c : BitVec 8) : Word := c.setWidth 64

/-- The write data that issues a command. -/
def encodeWrite (i : Instr) : Word := carrier (encode i)

/-- Every command's word passes the four checks of WellFormed.lean. -/
def Instr.wellFormed (i : Instr) : Bool := (fieldsOf (encodeWrite i)).wellFormed

/-- The number made of the low `nbits` bits of `w`: the bits the opcode table gives the row, all above them 0. -/
def tableValue (nbits w : Nat) : Nat := w % 2 ^ nbits

/-- The host's reading of the opcode table: the write data is the row's bits, bit 0 least significant, upper bits 0; a
number that does not fit the 64 data bits is no write data. -/
def decodeTableWord (nbits w : Nat) : Option Instr :=
  if tableValue nbits w < 2 ^ 64 then (decode (BitVec.ofNat 64 (tableValue nbits w))).toOption else none

end Sys2Proof
end

