-- ==== Sys2Proof/Machine/State.lean ====
section
/-! DEFINITION. The state of one block and of what stands around it (10_state.md), the reasons a step can stop, and the
state right after reset (10_state.md R40). -/

namespace Sys2Proof.Machine

/-- The phases of the sequencer (10_state.md R31). -/
inductive Phase where
  | idle | start | words | tail | fin1 | fin2 | fin3 | fin4 | fin5 | retire
  deriving DecidableEq, Repr

/-- `STATUS`: its three fields; bits 63 down to 3 read as zero and hold nothing (10_state.md R22). -/
structure Status where
  /-- bit 0: a command is between accept and retire. -/
  busy : Bool
  /-- bit 1, sticky: an illegal command word was written while idle. -/
  eill : Bool
  /-- bit 2, sticky: a host write other than to STATUS arrived while busy. -/
  ebusy : Bool
  deriving DecidableEq, Repr

/-- Everything the spec gives the machine (10_state.md R20 to R33, R37, R38), then four fields of the model's own. `CMD`
and the reserved indices hold no state (R21, R29); `OB` is the byte view of `OUT0` to `OUT3` (R28). -/
structure State where
  /-- `STATUS`, index 0x1 (R22). -/
  status : Status
  /-- `SEED`, index 0x2 (R23). -/
  seed : Word
  /-- `LEN`, index 0x3: the number of bytes of the InputBuffer (R24). -/
  len : Word
  /-- `DIGEST`, index 0x4 (R25). -/
  digest : Word
  /-- `TIME`, index 0x5: the sample of the last retired SEEDGEN (R26). -/
  time : Word
  /-- `OUTLEN`, index 0x6, 6 bits: 0 or 32 (R27). -/
  outlen : BitVec 6
  /-- `OUT0`, index 0x8 (R28). -/
  out0 : Word
  /-- `OUT1`, index 0x9 (R28). -/
  out1 : Word
  /-- `OUT2`, index 0xA (R28). -/
  out2 : Word
  /-- `OUT3`, index 0xB (R28). -/
  out3 : Word
  /-- `PH`, hidden: the step that runs next (R31). -/
  ph : Phase
  /-- `CUR`, hidden, 8 bits: the command word accepted (R31). -/
  cur : BitVec 8
  /-- `IDX`, hidden: the number of full words absorbed (R31). -/
  idx : Word
  /-- `ACC`, hidden: the accumulator (R30). -/
  acc : Word
  /-- `TS`, hidden: the time sampled at the accept of a SEEDGEN (R31). -/
  ts : Word
  /-- `IB`, the host's input buffer space, in canonical form (R38; Ops.lean `Memory`). -/
  ib : List Host.Cell
  /-- `time_in`: the value the platform has announced for the next sample, if any (43 R171, 30 R89; log 4). -/
  timeIn : Option Word
  /-- The model's own: how many free values have been drawn; in a System the system's count takes its place (log 5). -/
  draws : Nat
  /-- The model's own: the interleaving of the agents' actions still to come, next first (44 R185; log 1). -/
  agenda : List Move
  /-- The model's own: what the host's reads returned, newest first (10 R34; log 17). -/
  reads : List (BitVec 4 × Word)
  deriving DecidableEq, Repr

/-- Why the machine stops with a fault. The block itself has no fault (60_exceptions.md R215, R222). -/
inductive Fault where
  /-- `STATUS.BUSY` is 1 and none of the steps of 44_sequencer.md R187 to R196 is enabled. Raised by the sequencer's turn
  (Port.lean `sequencerMove`), only in states no run from reset reaches (Safety.lean `State.coherent`). SAFE: the machine stops
  where no rule says how it goes on (log 8). -/
  | noStepEnabled
  deriving DecidableEq, Repr

/-- Why a step has no meaning in the model. -/
inductive Refusal where
  /-- An instruction without a meaning; no arm of exec answers it. SAFE. -/
  | notModelled (mnemonic : String)
  /-- The host changes a byte of `IB[0 .. LEN-1]` while MIX or HASHMIX runs: "this spec gives the command's result no
  meaning: a model refuses such a run" (70_reset_and_hazards.md R247, 92 D25). Raised by the host's buffer store (Port.lean
  `hostBuffer`), by no command. SAFE (log 7). -/
  | bufferChangedWhileBusy
  deriving DecidableEq, Repr

/-- The outcome of a step of this machine. -/
abbrev Outcome := Host.Outcome State Fault Refusal

/-- The machine right after reset (10_state.md R40): host-visible registers 0, idle, no error flag; the four hidden
registers "unspecified: any value" are free values (log 3). Nothing is listed in the buffer (log 6), no time is announced
(log 4), nothing is on the agenda (log 1). -/
def State.reset : State where
  status := ⟨false, false, false⟩
  seed := 0
  len := 0
  digest := 0
  time := 0
  outlen := 0
  out0 := 0
  out1 := 0
  out2 := 0
  out3 := 0
  ph := .idle
  cur := Config.resetCur 0
  idx := Config.resetIdx 0
  acc := Config.resetAcc 0
  ts := Config.resetTs 0
  ib := []
  timeIn := none
  draws := 1
  agenda := []
  reads := []

end Sys2Proof.Machine
end

