-- ==== Sys2Proof/Machine/Flags.lean ====
section
/-! DEFINITION. The flags: the three bits of `STATUS` as a word, the two error events, and write-1-to-clear
(10_state.md R22, 60_exceptions.md R218 to R223, 44_sequencer.md R204). No arithmetic writes a flag (40 R108). -/

namespace Sys2Proof.Machine

/-- One flag as a 64-bit value, 0 or 1. -/
def flagBit (b : Bool) : Word := (BitVec.ofBool b).setWidth 64

/-- `STATUS` as the port reads it: BUSY in bit 0, EILL in bit 1, EBUSY in bit 2, zeros above (10_state.md R22). -/
def statusWord (f : Status) : Word := flagBit f.busy ||| (flagBit f.eill <<< 1) ||| (flagBit f.ebusy <<< 2)

/-- `raise EILL`: the flag is set and the write has no other effect (60_exceptions.md R218, R222). -/
def State.raiseEill (s : State) : State := { s with status := { s.status with eill := true } }

/-- `raise EBUSY`: the flag is set and the write has no other effect (60_exceptions.md R219, R222). -/
def State.raiseEbusy (s : State) : State := { s with status := { s.status with ebusy := true } }

/-- A write of `v` to STATUS clears EILL if `v[1] = 1` and EBUSY if `v[2] = 1`, and does nothing else
(44_sequencer.md R204). -/
def State.clearFlags (v : Word) (s : State) : State :=
  { s with status := { s.status with
      eill := s.status.eill && !v.getLsbD 1
      ebusy := s.status.ebusy && !v.getLsbD 2 } }

end Sys2Proof.Machine
end

