-- ==== Sys2Proof/Machine/Ops.lean ====
section
/-! DEFINITION. The named operations: the input buffer's bytes, the register reads of the port, the host's register
writes, accepting a command, sampling the time, ending a command, and reset. -/

namespace Sys2Proof.Machine

/-- A byte-addressed space as (address, byte) pairs in canonical form (`Memory.wf`). -/
abbrev Memory := List Host.Cell

/-- What an address that is not listed reads as. DESIGN CHOICE, unsafe (log 6): the spec leaves the bytes the host has not
written unconstrained (30_encoding.md R89). -/
def Memory.unlisted : Byte := 0#8

/-- The byte at an address. -/
def Memory.read : Memory → Nat → Byte
  | [], _ => Memory.unlisted
  | (k, b) :: m, a => if k = a then b else Memory.read m a

/-- An entry put before a list, or left out where it says what an unlisted address reads as anyway. -/
def Memory.entry (a : Nat) (b : Byte) (m : Memory) : Memory := if b = Memory.unlisted then m else (a, b) :: m

/-- One byte stored, keeping the canonical form. -/
def Memory.write : Memory → Nat → Byte → Memory
  | [], a, b => Memory.entry a b []
  | (k, c) :: m, a, b =>
    if a < k then Memory.entry a b ((k, c) :: m)
    else if a = k then Memory.entry a b m
    else (k, c) :: Memory.write m a b

/-- The addresses rise strictly from `lo` on, none reaches 2^64, and no entry says what an unlisted address reads as. -/
def Memory.wfFrom : Nat → Memory → Bool
  | _, [] => true
  | lo, (k, b) :: m => decide (lo ≤ k) && decide (k < 2 ^ 64) && decide (b ≠ Memory.unlisted) && Memory.wfFrom (k + 1) m

/-- The canonical form: equal buffers are equal lists. -/
def Memory.wf (m : Memory) : Bool := Memory.wfFrom 0 m

/-- `IB[a]` (10_state.md R38). -/
def State.ibByte (s : State) (a : Word) : Byte := Memory.read s.ib a.toNat

/-- The host stores a byte of its buffer (10_state.md R38: "written only by the host"). -/
def State.storeBuffer (a : Word) (b : Byte) (s : State) : State := { s with ib := Memory.write s.ib a.toNat b }

/-- What `RD(idx)` returns: the table of 10_state.md R20 with R21 to R29, narrower registers with zeros above. -/
def State.readReg (s : State) (idx : BitVec 4) : Word :=
  if idx = 0x1 then statusWord s.status
  else if idx = 0x2 then s.seed
  else if idx = 0x3 then s.len
  else if idx = 0x4 then s.digest
  else if idx = 0x5 then s.time
  else if idx = 0x6 then s.outlen.setWidth 64
  else if idx = 0x8 then s.out0
  else if idx = 0x9 then s.out1
  else if idx = 0xA then s.out2
  else if idx = 0xB then s.out3
  else 0

/-- A host write to a register other than CMD and STATUS while idle: SEED, LEN and DIGEST take the value, every other
index is dropped with no flag (10_state.md R35, R29). -/
def State.writeReg (idx : BitVec 4) (v : Word) (s : State) : State :=
  if idx = 0x2 then { s with seed := v }
  else if idx = 0x3 then { s with len := v }
  else if idx = 0x4 then { s with digest := v }
  else s

/-- A host read: the value goes to the host and no state of the block changes (10_state.md R34; log 17). -/
def State.hostRead (idx : BitVec 4) (s : State) : State := { s with reads := (idx, s.readReg idx) :: s.reads }

/-- `sample_time()` into `TS` (43_time_seed_generator.md R171, R174; 44 R186): the announced value, else a fresh free
value (log 4). The announcement is for one sample (30_encoding.md R89). The free value is that of the draw's number, which
in a system is the system's, so samples of different instances are not related (43 R175, 20 R67; log 5). -/
def State.sampleTime (s : State) : State :=
  { s with ts := s.timeIn.getD (Config.timeSource s.draws), timeIn := none, draws := s.draws + 1 }

/-- ACCEPT of a command, less the time sample (44_sequencer.md R186): `CUR`, `PH` and `BUSY`, nothing else. -/
def State.accept (i : Instr) (s : State) : State :=
  { s with cur := encode i, ph := .start, status := { s.status with busy := true } }

/-- The write of command i's word to CMD: dropped with EBUSY while busy (44_sequencer.md R202, 60 R219, R221), else
`taken` is what the accept of R186 leaves. The common shape of the five commands. -/
def issue (s taken : State) : State := if s.status.busy then s.raiseEbusy else taken

/-- The end of RETIRE: `PH <- IDLE`, `STATUS.BUSY <- 0` (44_sequencer.md R196). -/
def State.finish (s : State) : State := { s with ph := .idle, status := { s.status with busy := false } }

/-- The reset event (70_reset_and_hazards.md R240, R241): every piece of the block's state takes its value of 10_state.md
R40, the hidden registers fresh free values (log 3), numbered in a system by the system's count (log 5); `IB` and `time_in`
are not touched. -/
def State.rst (s : State) : State :=
  { State.reset with
    cur := Config.resetCur s.draws
    idx := Config.resetIdx s.draws
    acc := Config.resetAcc s.draws
    ts := Config.resetTs s.draws
    ib := s.ib
    timeIn := s.timeIn
    draws := s.draws + 1
    agenda := s.agenda
    reads := s.reads }

end Sys2Proof.Machine
end

