-- ==== Sys2Proof/Machine/Operands.lean ====
section
/-! DEFINITION. The operand forms: bytes to words and back (20_memory.md R50 to R58), the effective operands of a
command's Mixer run (44_sequencer.md, the table before R187), the byte view `OB` (10_state.md R28, 20 R57), and the signed
reading at the call boundary (10_state.md R36). -/

namespace Sys2Proof.Machine

/-- `le(b[0..n-1])` as an exact natural: `b[0]` the least significant byte (20_memory.md R50). -/
def leNat : List Byte → Nat
  | [] => 0
  | b :: bs => b.toNat + 256 * leNat bs

/-- `zext_64(le(...))` of at most 8 bytes (R51). -/
def leWord (bs : List Byte) : Word := BitVec.ofNat 64 (leNat bs)

/-- Byte j of a word: `v[8j+7 : 8j]` (R57). -/
def byteOf (v : Word) (j : Nat) : Byte := v.extractLsb' (8 * j) 8

/-- The 8 bytes of a word, least significant first: the sample as a buffer (R58). -/
def wordBytesOf (v : Word) : List Byte := (List.range 8).map (byteOf v)

/-- `IB[a], IB[a+1], ..., IB[a+n-1]`. -/
def State.ibBytes (s : State) (a : Word) (n : Nat) : List Byte :=
  (List.range n).map fun j => s.ibByte (a + BitVec.ofNat 64 j)

/-- `MemRead(a, n)` (R51), which is defined there for `a + n <= x[LEN]` only; beyond that the index wraps (log 20). -/
def State.memRead (s : State) (a : Word) (n : Nat) : Word := leWord (s.ibBytes a n)

/-- `q = len >> 3`, the number of full words (41_mixer.md R122). -/
def fullWords (len : Word) : Word := len >>> 3

/-- `r = len & 7`, the number of tail bytes (41_mixer.md R122). -/
def tailBytes (len : Word) : Nat := (len &&& 7).toNat

/-- The command in `CUR`, if it is a command word. -/
def State.command (s : State) : Option Instr := (decode (carrier s.cur)).toOption

/-- `seed_eff` and `len_eff` of the commands that run the Mixer; none for the two that do not (44_sequencer.md, table
before R187). -/
def State.mixerOperands (s : State) : Instr → Option (Word × Word)
  | .mix => some (s.seed, s.len)
  | .hashmix => some (s.seed, s.len)
  | .seedgen => some (Config.KSEED, 8)
  | .expand => none
  | .hashmixA => none

/-- Full word k of the running command: `MemRead(8*k, 8)`, for SEEDGEN the sample (44_sequencer.md, the same table; 20 R52). -/
def State.fullWord (s : State) (c : Instr) (k : Word) : Word :=
  if c = .seedgen then s.ts else s.memRead (8 * k) 8

/-- The tail word `MemRead(8*q, r)` of MIX and HASHMIX when `r` is 1 to 7; there is no other (20_memory.md R53, 44 table). -/
def State.tailWord (s : State) (c : Instr) : Option Word :=
  if (c = .mix ∨ c = .hashmix) ∧ tailBytes s.len ≠ 0 then
    some (s.memRead (8 * fullWords s.len) (tailBytes s.len))
  else none

/-- `OUT<i>` by number. -/
def State.outWord (s : State) (i : Nat) : Word :=
  if i = 0 then s.out0 else if i = 1 then s.out1 else if i = 2 then s.out2 else s.out3

/-- `x[OUT<i>] <- v`. -/
def State.setOut (i : Nat) (v : Word) (s : State) : State :=
  if i = 0 then { s with out0 := v }
  else if i = 1 then { s with out1 := v }
  else if i = 2 then { s with out2 := v }
  else { s with out3 := v }

/-- `OB[k]`, k below 32: `OB[8i + j] = OUT<i>[8j+7 : 8j]` (10_state.md R28). -/
def State.obByte (s : State) (k : Nat) : Byte := byteOf (s.outWord (k / 8)) (k % 8)

/-- The 32-byte sequence the source's `expand` returns. -/
def State.obBytes (s : State) : List Byte := (List.range 32).map s.obByte

/-- A word with its byte j replaced. -/
def setByteOf (w : Word) (j : Nat) (b : Byte) : Word :=
  (w &&& ~~~((0xff#64) <<< (8 * j))) ||| (b.setWidth 64 <<< (8 * j))

/-- `OB[k] <- b`, k below 32. -/
def State.setObByte (k : Nat) (b : Byte) (s : State) : State :=
  s.setOut (k / 8) (setByteOf (s.outWord (k / 8)) (k % 8) b)

/-- `MemWrite(a, n, v)`: for j below n, `OB[a+j] <- v[8j+7 : 8j]` (20_memory.md R57). -/
def State.memWrite (a : Nat) : Nat → Word → State → State
  | 0, _, s => s
  | n + 1, v, s => State.setObByte (a + n) (byteOf v n) (State.memWrite a n v s)

/-- The bit pattern a host writes to SEED for a signed fingerprint (10_state.md R36). PRESUMED two's complement;
an integer outside the signed 64-bit range, which the boundary does not pass, is taken modulo 2^64 (log 12). -/
def fingerprintBits (z : Int) : Word := BitVec.ofInt 64 z

/-- The signed reading of a register, as `getHardwareSeed` returns DIGEST (10_state.md R36, 43 R176). PRESUMED (log 12). -/
def signedReading (v : Word) : Int := v.toInt

end Sys2Proof.Machine
end

