-- ==== Sys2Proof/Machine/Mixer.lean ====
section
/-! DEFINITION. The Mixer: the pure function `mix` (41_mixer.md R120 to R133), the sequencer's Mixer steps (44_sequencer.md
R187 to R195), and the command MIX (41 R134). -/

namespace Sys2Proof.Machine

/-- INIT (41_mixer.md R121): `seed ^ (n * G)`, n the length in bytes. -/
def initAcc (seed n : Word) : Word := xor64 seed (mul64 n Config.G)

/-- The WORD round (R123): XOR, then rotate by 27, then multiply by `M1`. -/
def wordRound (acc w : Word) : Word := mul64 (rotl64 (xor64 acc w) Config.rot1) Config.M1

/-- The TAIL round (R124): XOR, then rotate by 31, then multiply by `M2`. -/
def tailRound (acc t : Word) : Word := mul64 (rotl64 (xor64 acc t) Config.rot2) Config.M2

/-- The finaliser (R131): FIN1 to FIN5 in order. -/
def fmix (a : Word) : Word :=
  xorshift33 (mul64 (xorshift33 (mul64 (xorshift33 a) Config.F1)) Config.F2)

/-- The accumulator after the first k full words, word j being `w j` (R123). -/
def absorb (w : Nat → Word) : Nat → Word → Word
  | 0, acc => acc
  | k + 1, acc => wordRound (absorb w k acc) (w k)

/-- Full word k of a byte sequence: `le(data[8k], ..., data[8k+7])` (R122). -/
def dataWord (data : List Byte) (k : Nat) : Word := leWord ((data.drop (8 * k)).take 8)

/-- The tail round if there is a tail (R124, R125): the bytes from `8q` on, zero-extended. -/
def absorbTail (data : List Byte) (acc : Word) : Word :=
  if data.length % 8 = 0 then acc else tailRound acc (leWord (data.drop (8 * (data.length / 8))))

/-- `mix(data, seed)` (R132). -/
def mix (data : List Byte) (seed : Word) : Word :=
  fmix (absorbTail data
    (absorb (dataWord data) (data.length / 8) (initAcc seed (BitVec.ofNat 64 data.length))))

/-- The InputBuffer of a command: the bytes `IB[0]` to `IB[LEN-1]` (10_state.md R24, R38). -/
def State.message (s : State) : List Byte := s.ibBytes 0 s.len.toNat

/-- START (44_sequencer.md R187). -/
def startStep (c : Instr) (s : State) : State :=
  match s.mixerOperands c with
  | some (seed, len) => { s with acc := initAcc seed len, idx := 0, ph := .words }
  | none => { s with ph := .retire }

/-- WORD (R188). -/
def wordStep (c : Instr) (s : State) : State :=
  { s with acc := wordRound s.acc (s.fullWord c s.idx), idx := s.idx + 1 }

/-- WORDS-EXIT (R189). -/
def wordsExitStep (len : Word) (s : State) : State :=
  { s with ph := if tailBytes len ≠ 0 then .tail else .fin1 }

/-- Phase WORDS: WORD while `IDX < q`, WORDS-EXIT when `IDX = q`, no step enabled otherwise (R188, R189). -/
def wordsStep (c : Instr) (s : State) : Option State :=
  match s.mixerOperands c with
  | some (_, len) =>
    if s.idx < fullWords len then some (wordStep c s)
    else if s.idx = fullWords len then some (wordsExitStep len s)
    else none
  | none => none

/-- TAIL (R190). -/
def tailStep (c : Instr) (s : State) : Option State :=
  (s.tailWord c).map fun t => { s with acc := tailRound s.acc t, ph := .fin1 }

/-- FIN1, FIN3, FIN5 (R191, R193, R195): the xor-shift, then the next phase. -/
def finXor (next : Phase) (s : State) : State := { s with acc := xorshift33 s.acc, ph := next }

/-- FIN2, FIN4 (R192, R194): the multiplication, then the next phase. -/
def finMul (k : Word) (next : Phase) (s : State) : State := { s with acc := mul64 s.acc k, ph := next }

/-- RETIRE's arm of MIX (R196): `x[DIGEST] <- ACC`. -/
def commitMix (s : State) : State := { s with digest := s.acc }

/-- MIX (41_mixer.md R134): the write of its word to CMD. Accepted while idle (44 R186), it runs START to FIN5 and RETIRE
commits `mix(IB[0..LEN-1], SEED)` to DIGEST; while busy it is dropped with EBUSY (R202). -/
def execMix (s : State) : Outcome := .next (issue s (s.accept .mix))

end Sys2Proof.Machine
end

