-- ==== Sys2Proof/Machine/Expander.lean ====
section
/-! DEFINITION. The DigestExpander: the pure function `expand` (42_digest_expander.md R150 to R153) and the commands EXPAND
(R154), HASHMIX (R155) and HASHMIX.A (R156). -/

namespace Sys2Proof.Machine

/-- `word_i = digest + i * G` (42_digest_expander.md R151). -/
def expandWord (digest : Word) (i : Nat) : Word := add64 digest (mul64 (BitVec.ofNat 64 i) Config.G)

/-- `expand(digest)`: the words 0 to 3 as 32 bytes, each least significant byte first (R151, R152). -/
def expand (digest : Word) : List Byte := (List.range 4).flatMap fun i => wordBytesOf (expandWord digest i)

/-- `for i = 0 .. 3: x[OUT<i>] <- word_i; x[OUTLEN] <- 32` (44_sequencer.md R196). -/
def commitExpansion (d : Word) (s : State) : State :=
  { s with out0 := expandWord d 0, out1 := expandWord d 1, out2 := expandWord d 2, out3 := expandWord d 3,
           outlen := Config.outBytes }

/-- RETIRE's arm of EXPAND (R196): the expansion of DIGEST. -/
def commitExpand (s : State) : State := commitExpansion s.digest s

/-- RETIRE's arm of HASHMIX (R196): DIGEST and the expansion of the new digest. -/
def commitHashmix (s : State) : State := commitExpansion s.acc { s with digest := s.acc }

/-- RETIRE's arm of HASHMIX.A (R196): `x[OUTLEN] <- 0`. -/
def commitHashmixA (s : State) : State := { s with outlen := 0 }

/-- EXPAND (42_digest_expander.md R154): the write of its word to CMD; RETIRE commits the expansion of DIGEST. -/
def execExpand (s : State) : Outcome := .next (issue s (s.accept .expand))

/-- HASHMIX (R155): the write of its word to CMD; RETIRE commits the digest and its expansion. -/
def execHashmix (s : State) : Outcome := .next (issue s (s.accept .hashmix))

/-- HASHMIX.A (R156): the write of its word to CMD; RETIRE commits the zero-length result. -/
def execHashmixA (s : State) : Outcome := .next (issue s (s.accept .hashmixA))

end Sys2Proof.Machine
end

