-- ==== Sys2Proof/Machine/SeedGen.lean ====
section
/-! DEFINITION. The SeedGenerator: the pure function `seedgen` (43_time_seed_generator.md R170 to R173) and the command
SEEDGEN (R174). -/

namespace Sys2Proof.Machine

/-- `seedgen(t)`: the Mixer on the 8 bytes of the sample with the fixed seed (43_time_seed_generator.md R173). -/
def seedgen (t : Word) : Word := mix (wordBytesOf t) Config.KSEED

/-- RETIRE's arm of SEEDGEN (44_sequencer.md R196): DIGEST and TIME. -/
def commitSeedgen (s : State) : State := { s with digest := s.acc, time := s.ts }

/-- SEEDGEN (43_time_seed_generator.md R174): the write of its word to CMD, which samples the time once at accept (44
R186); RETIRE commits the sample to TIME and `seedgen` of it to DIGEST. -/
def execSeedgen (s : State) : Outcome := .next (issue s (s.sampleTime.accept .seedgen))

end Sys2Proof.Machine
end

