-- ==== Sys2Proof/Machine/Sequencer.lean ====
section
/-! DEFINITION. The sequencer: the one step enabled in each phase and RETIRE (44_sequencer.md R187 to R196), and runs of
it (R197). -/

namespace Sys2Proof.Machine

/-- What RETIRE commits for the command in `CUR` (44_sequencer.md R196). -/
def commit : Instr → State → State
  | .mix, s => commitMix s
  | .expand, s => commitExpand s
  | .hashmix, s => commitHashmix s
  | .hashmixA, s => commitHashmixA s
  | .seedgen, s => commitSeedgen s

/-- RETIRE, one indivisible step (R196). -/
def retireStep (c : Instr) (s : State) : State := (commit c s).finish

/-- The step of the current phase, if one is enabled (R187 to R196). -/
def phaseStep (s : State) : Option State :=
  match s.ph with
  | .idle => none
  | .start => s.command.map fun c => startStep c s
  | .words => s.command.bind fun c => wordsStep c s
  | .tail => s.command.bind fun c => tailStep c s
  | .fin1 => some (finXor .fin2 s)
  | .fin2 => some (finMul Config.F1 .fin3 s)
  | .fin3 => some (finXor .fin4 s)
  | .fin4 => some (finMul Config.F2 .fin5 s)
  | .fin5 => some (finXor .retire s)
  | .retire => s.command.map fun c => retireStep c s

/-- The sequencer's step: it takes steps "while `STATUS.BUSY = 1`" and "has no step while idle" (R185 b). -/
def sequencerStep (s : State) : Option State := if s.status.busy then phaseStep s else none

/-- n steps of the sequencer with nothing in between. -/
def sequencerRun : Nat → State → Option State
  | 0, s => some s
  | n + 1, s => (sequencerStep s).bind (sequencerRun n)

/-- The reference schedule's steps from accept to retirement, the retirement included (R197). Not timing (70 R254). -/
def referenceSteps (s : State) : Instr → Nat
  | .mix => (fullWords s.len).toNat + 8 + (if tailBytes s.len = 0 then 0 else 1)
  | .hashmix => (fullWords s.len).toNat + 8 + (if tailBytes s.len = 0 then 0 else 1)
  | .seedgen => 9
  | .expand => 2
  | .hashmixA => 2

end Sys2Proof.Machine
end

