-- ==== Sys2Proof/Machine/Dispatch.lean ====
section
/-! DEFINITION. The meaning of each command: the effect of the host's write of its word to CMD. -/

namespace Sys2Proof.Machine

def exec (i : Instr) (s : State) : Host.Outcome State Fault Refusal :=
  match i with
  | .mix => Sys2Proof.Machine.execMix s
  | .expand => Sys2Proof.Machine.execExpand s
  | .hashmix => Sys2Proof.Machine.execHashmix s
  | .hashmixA => Sys2Proof.Machine.execHashmixA s
  | .seedgen => Sys2Proof.Machine.execSeedgen s

end Sys2Proof.Machine
end

