-- ==== Sys2Proof/Machine/Port.lean ====
section
/-! DEFINITION. The moves of the agents: the host's transactions idle and busy (10_state.md R34, R35; 44_sequencer.md R202 to
R204), its buffer stores (70 R247), and the sequencer's turn (44 R185). -/

namespace Sys2Proof.Machine

/-- `WR(0x0, v)`: while busy dropped with EBUSY, its data not examined (60_exceptions.md R221); while idle the command the
word names, or EILL (44 R186, 60 R218). -/
def commandWrite (v : Word) (s : State) : Outcome :=
  if s.status.busy then .next s.raiseEbusy
  else
    match decode v with
    | .ok i => exec i s
    | .error _ => .next s.raiseEill

/-- `WR(idx, v)`: STATUS idle or busy alike (44 R204), CMD (10 R21), every other register (10 R35 idle, 44 R202 busy). -/
def hostWrite (idx : BitVec 4) (v : Word) (s : State) : Outcome :=
  if idx = 0x1 then .next (s.clearFlags v)
  else if idx = 0x0 then commandWrite v s
  else if s.status.busy then .next s.raiseEbusy
  else .next (s.writeReg idx v)

/-- The running command reads the input buffer: MIX or HASHMIX between accept and retire. -/
def State.readsBuffer (s : State) : Bool :=
  s.status.busy && (s.command == some .mix || s.command == some .hashmix)

/-- The host stores a byte of its buffer: refused if it changes a byte of the running command's InputBuffer (70 R247, log 7);
"bytes at indices `x[LEN]` and above may change freely". -/
def hostBuffer (a : Word) (b : Byte) (s : State) : Outcome :=
  if s.readsBuffer ∧ a < s.len ∧ b ≠ s.ibByte a then .refused .bufferChangedWhileBusy
  else .next (s.storeBuffer a b)

/-- The sequencer's turn: its enabled step while busy, nothing while idle (44 R185 b). -/
def sequencerMove (s : State) : Outcome :=
  if s.status.busy then
    match sequencerStep s with
    | some t => .next t
    | none => .fault .noStepEnabled
  else .next s

/-- `wait`: one read of STATUS; while it returns BUSY the sequencer has a turn and the read is repeated (30_encoding.md
R90; log 16). -/
def waitMove (s : State) : State :=
  let t := s.hostRead 0x1
  if s.status.busy then { t with agenda := .sequencer :: .wait :: s.agenda } else t

/-- One move, taken off the agenda already. -/
def perform (m : Move) (s : State) : Outcome :=
  match m with
  | .write idx v => hostWrite idx v s
  | .read idx => .next (s.hostRead idx)
  | .wait => .next (waitMove s)
  | .sequencer => sequencerMove s
  | .stall => .next s
  | .reset => .next s.rst
  | .buffer a b => hostBuffer a b s
  | .clock t => .next { s with timeIn := some t }

/-- The write that stands for a command word placed from outside: the host's `WR(0x0, v)`. -/
def placeWord (nbits w : Nat) : Move := .write 0x0 (BitVec.ofNat 64 (tableValue nbits w))

end Sys2Proof.Machine
end

