-- ==== Sys2Proof/Machine/Step.lean ====
section
/-! DEFINITION. One step of the machine: the next move of the agenda; with the agenda used up, the sequencer's turn (44
R197: an enabled sequencer step is eventually taken; log 1, 9). -/

namespace Sys2Proof.Machine

/-- One step. -/
def step (s : State) : Host.Outcome State Fault Refusal :=
  match s.agenda with
  | [] => sequencerMove s
  | m :: rest => perform m { s with agenda := rest }

/-- The state with the host's write of the word to CMD as its next move (log 2): a command reaches the block in no other
way (10_state.md R21, R32). -/
def State.withFetchWord (s : State) (nbits w : Nat) : State := { s with agenda := placeWord nbits w :: s.agenda }

end Sys2Proof.Machine
end

