-- ==== Sys2Proof/Machine/Script.lean ====
section
/-! DEFINITION. Host scripts: each statement, directive and pseudo-instruction as the moves it stands for
(30_encoding.md R88, R89, R90). -/

namespace Sys2Proof.Machine

/-- `idx(REG)` (10_state.md R20). -/
def regIndex : Reg → BitVec 4
  | .CMD => 0x0
  | .STATUS => 0x1
  | .SEED => 0x2
  | .LEN => 0x3
  | .DIGEST => 0x4
  | .TIME => 0x5
  | .OUTLEN => 0x6
  | .OUT0 => 0x8
  | .OUT1 => 0x9
  | .OUT2 => 0xA
  | .OUT3 => 0xB

/-- The index a statement's register operand names (30_encoding.md R88). -/
def refIndex : RegRef → BitVec 4
  | .named r => regIndex r
  | .index i => i

/-- `.ib`: the bytes given, from index `a` on (R89). DESIGN CHOICE, unsafe (log 22): the bytes beyond those given, which R89
leaves unconstrained, keep what the buffer held; `.ib` alone is no move. -/
def bufferMoves : Word → List Byte → List Move
  | _, [] => []
  | a, b :: bs => .buffer a b :: bufferMoves (a + 1) bs

/-- The moves of one statement (R88, R89) or of one pseudo-instruction's expansion (R90). -/
def stmtMoves : Stmt → List Move
  | .wr r v => [.write (refIndex r) v]
  | .rd r => [.read (refIndex r)]
  | .mix => [.write 0x0 (encodeWrite .mix)]
  | .expand => [.write 0x0 (encodeWrite .expand)]
  | .hashmix => [.write 0x0 (encodeWrite .hashmix)]
  | .hashmixA => [.write 0x0 (encodeWrite .hashmixA)]
  | .seedgen => [.write 0x0 (encodeWrite .seedgen)]
  | .cmd v => [.write 0x0 v]
  | .clr v => [.write 0x1 v]
  | .rst => [.reset]
  | .ib bytes => bufferMoves 0 bytes
  | .time t => [.clock t]
  | .steps n => List.replicate n .sequencer
  | .wait => [.wait]
  | .customhashmix fp n =>
    [.write 0x2 (fingerprintBits fp), .write 0x3 n, .write 0x0 (encodeWrite .hashmix), .wait,
     .read 0x6, .read 0x8, .read 0x9, .read 0xA, .read 0xB]
  | .customhashmixAbsent fp =>
    [.write 0x2 (fingerprintBits fp), .write 0x0 (encodeWrite .hashmixA), .wait, .read 0x6]
  | .gethardwareseed => [.write 0x0 (encodeWrite .seedgen), .wait, .read 0x4]

/-- A script put on the agenda of a state. -/
def State.withScript (s : State) (script : List Stmt) : State :=
  { s with agenda := script.flatMap stmtMoves ++ s.agenda }

end Sys2Proof.Machine
end

