-- ==== Sys2Proof/Machine/System.lean ====
section
/-! DEFINITION. Several instances of the block (60_exceptions.md R229, 20_memory.md R67): `N_INSTANCES` is OPEN, at least 1, so
a list of any length; the instances share nothing, so a move of one is a step of that one (log 14). -/

namespace Sys2Proof.Machine

/-- The instances of a system, and the one count of the free values drawn in it. DESIGN CHOICE (log 5): the count is the
system's, so no two draws have the same number, and nothing relates the unannounced time samples or the hidden reset values
of two instances (00_scope.md R12, 20 R67, 43 R175): they may be equal and they may differ. DESIGN CHOICE, unsafe (log 23):
each instance has an input buffer and a pending time of its own, so a host store or an announcement reaches one instance;
that instances "may read the same physical buffer" and "may share one time source" (20 R67) is the same move for each. -/
structure System where
  /-- The instances. -/
  blocks : List State
  /-- The model's own: how many free values the instances have drawn together. A block's own `draws` is set to it for the
  block's step and is not read otherwise. -/
  draws : Nat
  deriving DecidableEq, Repr

/-- n instances right after reset (10_state.md R40), the hidden registers of instance k being draw k (log 3, 5). -/
def System.reset (n : Nat) : System where
  blocks := (List.range n).map fun k => State.rst { State.reset with draws := k }
  draws := n

/-- Instance k takes a step, its draws numbered on from the system's count; `none` where there is no instance k. -/
def systemStep (k : Nat) (y : System) : Option (Host.Outcome System Fault Refusal) :=
  match y.blocks[k]? with
  | none => none
  | some s =>
    match step { s with draws := y.draws } with
    | .next t => some (.next ⟨y.blocks.set k t, t.draws⟩)
    | .fault r => some (.fault r)
    | .refused r => some (.refused r)

end Sys2Proof.Machine
end

