-- ==== Sys2Proof/Safety.lean ====
section
/-! DEFINITION. What claims about the machine are stated in: the legal states and the invariant that ties the accumulator
to the Mixer's function, the results a host can read, what each command is to leave behind, and which hidden registers
still matter. -/

namespace Sys2Proof.Machine

/-- The phases in which the Mixer's finaliser or its rounds run. -/
def Phase.inMixer : Phase → Bool
  | .words | .tail | .fin1 | .fin2 | .fin3 | .fin4 | .fin5 => true
  | .idle | .start | .retire => false

/-- What `CUR` must be and where `IDX` may stand in the current phase: in START and RETIRE any command; in the Mixer's
phases one that runs the Mixer, `IDX` at most q in WORDS (10_state.md R32), and in TAIL one with a tail (44 R190). -/
def State.phaseOk (s : State) : Bool :=
  match s.ph, s.command with
  | .idle, _ => true
  | .start, some _ => true
  | .retire, some _ => true
  | .words, some c =>
    match s.mixerOperands c with
    | some (_, len) => decide (s.idx ≤ fullWords len)
    | none => false
  | .tail, some c => (s.tailWord c).isSome
  | _, some c => (s.mixerOperands c).isSome
  | _, none => false

/-- The legal states: `PH = IDLE` exactly when `STATUS.BUSY = 0` (10_state.md R31), `CUR` and `IDX` as the phase needs
them, OUTLEN 0 or 32 (R27), and the buffer in canonical form. -/
def State.coherent (s : State) : Bool :=
  (s.status.busy == (s.ph != .idle)) && s.phaseOk && (s.outlen == 0 || s.outlen == Config.outBytes)
    && Memory.wf s.ib

/-- The accumulator after all full words. -/
def State.accWords (s : State) (c : Instr) (seed len : Word) : Word :=
  absorb (fun k => s.fullWord c (BitVec.ofNat 64 k)) (fullWords len).toNat (initAcc seed len)

/-- The accumulator after the tail round, if there is one. -/
def State.accTail (s : State) (c : Instr) (seed len : Word) : Word :=
  match s.tailWord c with
  | some t => tailRound (s.accWords c seed len) t
  | none => s.accWords c seed len

/-- What `ACC` holds in each phase of a command that runs the Mixer, as a function of its operands (41_mixer.md R121 to
R130, R135); no constraint in IDLE and START. -/
def State.expectedAcc (s : State) (c : Instr) (seed len : Word) : Word :=
  let a := s.accTail c seed len
  match s.ph with
  | .idle => s.acc
  | .start => s.acc
  | .words => absorb (fun k => s.fullWord c (BitVec.ofNat 64 k)) s.idx.toNat (initAcc seed len)
  | .tail => s.accWords c seed len
  | .fin1 => a
  | .fin2 => xorshift33 a
  | .fin3 => mul64 (xorshift33 a) Config.F1
  | .fin4 => xorshift33 (mul64 (xorshift33 a) Config.F1)
  | .fin5 => mul64 (xorshift33 (mul64 (xorshift33 a) Config.F1)) Config.F2
  | .retire => fmix a

/-- While a command that runs the Mixer is under way, `ACC` is the Mixer's partial result on its operands. -/
def State.Tracks (s : State) : Prop :=
  ∀ c seed len, s.status.busy = true → s.command = some c → s.mixerOperands c = some (seed, len) →
    s.acc = s.expectedAcc c seed len

/-- The invariant of the machine: every step keeps it. -/
def State.Inv (s : State) : Prop := s.coherent = true ∧ s.Tracks

/-- The result registers: DIGEST, TIME, OUTLEN, OUT0 to OUT3. -/
def State.results (s : State) : Word × Word × BitVec 6 × Word × Word × Word × Word :=
  (s.digest, s.time, s.outlen, s.out0, s.out1, s.out2, s.out3)

/-- The running command retires after n steps: the block is busy up to there, the n-th state is in phase RETIRE, and the
next step is the sequencer's own, to an idle block (44_sequencer.md R196, R197). -/
def State.retiresAfter (s : State) (n : Nat) : Prop :=
  (∀ m ≤ n, ∃ w, Host.Core.run core m s = .next w ∧ w.status.busy = true) ∧
  ∃ t u rest, Host.Core.run core n s = .next t ∧ t.ph = .retire ∧ step t = .next u ∧
    sequencerStep { t with agenda := rest } = some u ∧ u.status.busy = false

/-- The agenda holds no store the model would refuse (70 R247): while MIX or HASHMIX runs, every store to come is at LEN or
above, or writes the byte that is there. -/
def State.storesHarmless (s : State) : Prop :=
  s.readsBuffer = true → ∀ a b, Move.buffer a b ∈ s.agenda → s.len ≤ a ∨ b = s.ibByte a

/-- A state with the four words of `expand(d)` in OUT0 to OUT3 and OUTLEN 32 (42_digest_expander.md R154). -/
def State.holdingExpansion (d : Word) (s : State) : State :=
  { s with out0 := add64 d (mul64 0 Config.G), out1 := add64 d (mul64 1 Config.G),
           out2 := add64 d (mul64 2 Config.G), out3 := add64 d (mul64 3 Config.G), outlen := 32 }

/-- The time value a SEEDGEN accepted in this state samples (43_time_seed_generator.md R171; log 4). -/
def State.sample (s : State) : Word := s.timeIn.getD (Config.timeSource s.draws)

/-- What the retirement of a command accepted in s leaves in the result registers, through the pure functions only (41
R134, 42 R154 to R156, 43 R174): the rules' own effect, no sequencer. -/
def State.afterCommand (s : State) : Instr → State
  | .mix => { s with digest := mix s.message s.seed }
  | .expand => s.holdingExpansion s.digest
  | .hashmix => State.holdingExpansion (mix s.message s.seed) { s with digest := mix s.message s.seed }
  | .hashmixA => { s with outlen := 0 }
  | .seedgen => { s with digest := seedgen s.sample, time := s.sample }

/-- A state with its hidden registers replaced: used for states that differ in `ACC`, `IDX`, `CUR`, `TS` alone. -/
def State.withHidden (acc idx : Word) (cur : BitVec 8) (ts : Word) (s : State) : State :=
  { s with acc := acc, idx := idx, cur := cur, ts := ts }

/-- `ACC` is still to be read: inside the Mixer's phases, and in RETIRE of a command that commits it. -/
def State.accLive (s : State) : Bool :=
  s.status.busy && (s.ph.inMixer ||
    (s.ph == .retire && (s.command == some .mix || s.command == some .hashmix || s.command == some .seedgen)))

/-- `IDX` is still to be read: in phase WORDS (10_state.md R31). -/
def State.idxLive (s : State) : Bool := s.status.busy && s.ph == .words

/-- `TS` is still to be read: while a SEEDGEN runs (10_state.md R31). -/
def State.tsLive (s : State) : Bool := s.status.busy && s.command == some .seedgen

/-- The state with every dead hidden register set to 0: two states with the same view differ only in registers "no rule
reads before writing" (10_state.md R33). -/
def State.liveView (s : State) : State :=
  s.withHidden (if s.accLive then s.acc else 0) (if s.idxLive then s.idx else 0)
    (if s.status.busy then s.cur else 0) (if s.tsLive then s.ts else 0)

end Sys2Proof.Machine
end

