-- ==== Sys2Proof/Certificates/Slice0/Obligations.lean ====
section
/-! DEFINITION. The statements for the provers. Each docstring names the rule of spec/ it formalises; where a clause rests on
a choice of the model, it says so and names the log entry. -/

open Sys2Proof Sys2Proof.Machine

/-! ### Encoding (30_encoding.md) -/

/-- R83: the five printed words, read and written. -/
def Obligations.PrintedCommandWords : Prop :=
  decode 0x0000000000000001#64 = .ok .mix ∧ decode 0x0000000000000002#64 = .ok .expand ∧
  decode 0x0000000000000003#64 = .ok .hashmix ∧ decode 0x000000000000000b#64 = .ok .hashmixA ∧
  decode 0x0000000000000004#64 = .ok .seedgen ∧
  encode .mix = 0b00000001#8 ∧ encode .expand = 0b00000010#8 ∧ encode .hashmix = 0b00000011#8 ∧
  encode .hashmixA = 0b00001011#8 ∧ encode .seedgen = 0b00000100#8

/-- R82: the decoder's match is on all 64 bits; it accepts a word exactly when it is the encoder's word of the command, and
the accepted words are the five printed ones. -/
def Obligations.DecodeAcceptsExactlyEncodedWords : Prop :=
  (∀ (v : Word) (i : Instr), decode v = .ok i ↔ v = encodeWrite i) ∧
  (∀ v : Word, (∃ i, decode v = .ok i) ↔
    v = 0x0000000000000001#64 ∨ v = 0x0000000000000002#64 ∨ v = 0x0000000000000003#64 ∨
    v = 0x000000000000000b#64 ∨ v = 0x0000000000000004#64)

/-- R85: the classes of illegal words. That the upper bits are looked at first, then the `zero` field, is the model's order
(log 18); every class has the one effect of R218. -/
def Obligations.IllegalWordsByClass : Prop :=
  ∀ v : Word,
    (v.extractLsb' 8 56 ≠ 0 → decode v = .error .upperData) ∧
    (v.extractLsb' 8 56 = 0 → v.extractLsb' 4 4 ≠ 0 → decode v = .error .zeroField) ∧
    (v = 0x00#64 ∨ v = 0x08#64 → decode v = .error .noOperation) ∧
    (v = 0x05#64 ∨ v = 0x06#64 ∨ v = 0x07#64 ∨ v = 0x0d#64 ∨ v = 0x0e#64 ∨ v = 0x0f#64 →
      decode v = .error .reservedOperation) ∧
    (v = 0x09#64 ∨ v = 0x0a#64 ∨ v = 0x0c#64 → decode v = .error .absentFlag)

/-! ### A step runs the command the host writes (44_sequencer.md R186, 10_state.md R21) -/

/-- The host's write of a word that decodes to i runs i on the state without that move, idle or busy (10 R21; the agenda is
the model's, log 1). -/
def Obligations.StepRunsDecodedCommand : Prop :=
  ∀ (s : State) (v : Word) (rest : List Move) (i : Instr),
    s.agenda = .write 0x0 v :: rest → decode v = .ok i → step s = exec i { s with agenda := rest }

/-- A word placed by withFetchWord is the one the next step runs, and the state is otherwise untouched (log 2). -/
def Obligations.PlacedWordRunsNext : Prop :=
  ∀ (s : State) (nbits w : Nat) (i : Instr),
    decodeTableWord nbits w = some i → step (s.withFetchWord nbits w) = exec i s

/-! ### The commands: accept, run, commit -/

/-- MIX (41_mixer.md R134, 44 R186): every idle block accepts it, and the run of R197's length commits `mix` of the message
to DIGEST and changes no other register; only hidden registers differ besides. -/
def Obligations.MixAcceptsAndCommitsDigest : Prop :=
  ∀ s : State, s.status.busy = false →
    ∃ t, exec .mix s = .next t ∧
      t = { s with cur := 0x01#8, ph := .start, status := { s.status with busy := true } } ∧
      ∃ acc idx, sequencerRun (referenceSteps s .mix) t =
        some { s with digest := mix s.message s.seed, ph := .idle, cur := 0x01#8, acc := acc, idx := idx }

/-- EXPAND (42_digest_expander.md R154): the four words from DIGEST, OUTLEN 32, nothing else. -/
def Obligations.ExpandAcceptsAndCommitsWords : Prop :=
  encodeWrite .expand = 0x0000000000000002#64 ∧
  ∀ s : State, s.status.busy = false →
    ∃ t, exec .expand s = .next t ∧
      t = { s with cur := 0x02#8, ph := .start, status := { s.status with busy := true } } ∧
      sequencerRun (referenceSteps s .expand) t =
        some { s with out0 := add64 s.digest (mul64 0 Config.G), out1 := add64 s.digest (mul64 1 Config.G),
                      out2 := add64 s.digest (mul64 2 Config.G), out3 := add64 s.digest (mul64 3 Config.G),
                      outlen := 32, ph := .idle, cur := 0x02#8 }

/-- HASHMIX (42_digest_expander.md R155): the digest of the message, its expansion, OUTLEN 32, nothing else. -/
def Obligations.HashmixAcceptsAndCommitsExpansion : Prop :=
  encodeWrite .hashmix = 0x0000000000000003#64 ∧
  ∀ s : State, s.status.busy = false →
    ∃ t, exec .hashmix s = .next t ∧
      t = { s with cur := 0x03#8, ph := .start, status := { s.status with busy := true } } ∧
      ∃ acc idx d, d = mix s.message s.seed ∧ sequencerRun (referenceSteps s .hashmix) t =
        some { s with digest := d, out0 := add64 d (mul64 0 Config.G), out1 := add64 d (mul64 1 Config.G),
                      out2 := add64 d (mul64 2 Config.G), out3 := add64 d (mul64 3 Config.G), outlen := 32,
                      ph := .idle, cur := 0x03#8, acc := acc, idx := idx }

/-- HASHMIX.A (42_digest_expander.md R156): OUTLEN 0, nothing else; `ACC` is not written. -/
def Obligations.AbsentHashmixAcceptsAndCommitsNoBytes : Prop :=
  encodeWrite .hashmixA = 0x000000000000000b#64 ∧
  ∀ s : State, s.status.busy = false →
    ∃ t, exec .hashmixA s = .next t ∧
      t = { s with cur := 0x0b#8, ph := .start, status := { s.status with busy := true } } ∧
      sequencerRun (referenceSteps s .hashmixA) t = some { s with outlen := 0, ph := .idle, cur := 0x0b#8 }

/-- SEEDGEN (43_time_seed_generator.md R174): one sample at accept, TIME and DIGEST at retirement, nothing else. The sample
is the announced value, else a free value of Config (log 4), for every free value. -/
def Obligations.SeedgenAcceptsAndCommitsSeed : Prop :=
  ∀ s : State, s.status.busy = false →
    ∃ t, exec .seedgen s = .next t ∧
      t = { s with cur := 0x04#8, ph := .start, status := { s.status with busy := true }, ts := s.sample,
                   timeIn := none, draws := s.draws + 1 } ∧
      (∀ w, s.timeIn = some w → s.sample = w) ∧
      ∃ acc idx, sequencerRun (referenceSteps s .seedgen) t =
        some { s with digest := seedgen s.sample, time := s.sample, ph := .idle, cur := 0x04#8, acc := acc, idx := idx,
                      ts := s.sample, timeIn := none, draws := s.draws + 1 }

/-- The directive `.time` (30_encoding.md R89; the port as a pending announcement, log 4): announcing t sets the pending
value and nothing else, and a SEEDGEN written next to an idle block samples t and uses the announcement up. -/
def Obligations.AnnouncedTimeIsTheNextSample : Prop :=
  ∀ (s : State) (t : Word) (rest : List Move),
    (s.agenda = .clock t :: rest → step s = .next { s with agenda := rest, timeIn := some t }) ∧
    (s.agenda = .clock t :: .write 0x0 (encodeWrite .seedgen) :: rest → s.status.busy = false →
      ∃ u, Host.Core.run core 2 s = .next u ∧ u.ts = t ∧ u.timeIn = none ∧ u.command = some .seedgen ∧
        u.status.busy = true)

/-- ACCEPT (44_sequencer.md R186): CUR, PH, BUSY, and TS for SEEDGEN, in one event; nothing else changes. -/
def Obligations.IdleCommandIsAcceptedAtOnce : Prop :=
  ∀ (i : Instr) (s : State), s.status.busy = false →
    exec i s = .next
      (if i = .seedgen then
        { s with cur := encode i, ph := .start, status := { s.status with busy := true }, ts := s.sample,
                 timeIn := none, draws := s.draws + 1 }
       else { s with cur := encode i, ph := .start, status := { s.status with busy := true } })

/-- A command written while one runs is not queued: EBUSY, nothing else (44 R202, 60 R221). -/
def Obligations.BusyCommandIsDropped : Prop :=
  ∀ (i : Instr) (s : State), s.status.busy = true →
    exec i s = .next { s with status := { s.status with ebusy := true } }

/-- The frame of all five commands' write to CMD, idle or busy: no register a host can read changes but STATUS, no byte of
the buffer, not EILL; `TS` and the time input only by SEEDGEN (44 R186, R202). -/
def Obligations.CommandWriteFrame : Prop :=
  ∀ (i : Instr) (s t : State), exec i s = .next t →
    t.seed = s.seed ∧ t.len = s.len ∧ t.results = s.results ∧ t.acc = s.acc ∧ t.idx = s.idx ∧
    t.status.eill = s.status.eill ∧ t.agenda = s.agenda ∧ t.reads = s.reads ∧
    (∀ a, t.ibByte a = s.ibByte a) ∧
    (i ≠ .seedgen → t.ts = s.ts ∧ t.timeIn = s.timeIn ∧ t.draws = s.draws)

/-! ### The flags (60_exceptions.md, 44_sequencer.md R204) -/

/-- R218 (the host's write is the agenda's next move, log 1): an illegal word written while idle sets EILL and nothing
else; EILL stays 1 until the host clears it or reset. -/
def Obligations.IllegalWordSetsEill : Prop :=
  (∀ (s : State) (v : Word) (rest : List Move),
    s.agenda = .write 0x0 v :: rest → s.status.busy = false → (∀ i, v ≠ encodeWrite i) →
    step s = .next { s with agenda := rest, status := { s.status with eill := true } }) ∧
  (∀ s t : State, step s = .next t → s.status.eill = true → t.status.eill = false →
    (∃ v rest, s.agenda = .write 0x1 v :: rest ∧ v.getLsbD 1 = true) ∨ ∃ rest, s.agenda = .reset :: rest)

/-- R219, R202 (the host's write is the agenda's next move, log 1): any write but to STATUS while busy sets EBUSY and nothing
else; EBUSY stays 1 until the host clears it or reset. -/
def Obligations.WriteWhileBusySetsEbusy : Prop :=
  (∀ (s : State) (idx : BitVec 4) (v : Word) (rest : List Move),
    s.agenda = .write idx v :: rest → s.status.busy = true → idx ≠ 0x1 →
    step s = .next { s with agenda := rest, status := { s.status with ebusy := true } }) ∧
  (∀ s t : State, step s = .next t → s.status.ebusy = true → t.status.ebusy = false →
    (∃ v rest, s.agenda = .write 0x1 v :: rest ∧ v.getLsbD 2 = true) ∨ ∃ rest, s.agenda = .reset :: rest)

/-- R220, R221: nothing else raises a flag. -/
def Obligations.NothingElseRaisesAFlag : Prop :=
  ∀ s t : State, step s = .next t →
    (s.status.eill = false → t.status.eill = true →
      ∃ v rest, s.agenda = .write 0x0 v :: rest ∧ s.status.busy = false ∧ ∀ i, v ≠ encodeWrite i) ∧
    (s.status.ebusy = false → t.status.ebusy = true →
      ∃ idx v rest, s.agenda = .write idx v :: rest ∧ s.status.busy = true ∧ idx ≠ 0x1)

/-- R204: a write to STATUS, idle or busy, clears the flags whose data bit is 1; BUSY is not affected. -/
def Obligations.StatusWriteClearsFlags : Prop :=
  ∀ (s : State) (v : Word) (rest : List Move), s.agenda = .write 0x1 v :: rest →
    step s = .next { s with agenda := rest,
                            status := ⟨s.status.busy, if v.getLsbD 1 then false else s.status.eill,
                                       if v.getLsbD 2 then false else s.status.ebusy⟩ }

/-! ### Host access (10_state.md R29, R34, R35; 44_sequencer.md R201, R203) -/

/-- R35 (the host's write is the agenda's next move, log 1): a write while idle, by index. -/
def Obligations.IdleWritesByIndex : Prop :=
  ∀ (s : State) (idx : BitVec 4) (v : Word) (rest : List Move),
    s.agenda = .write idx v :: rest → s.status.busy = false →
    (∀ i, idx = 0x0 → v = encodeWrite i → step s = exec i { s with agenda := rest }) ∧
    (idx = 0x0 → (∀ i, v ≠ encodeWrite i) →
      step s = .next { s with agenda := rest, status := { s.status with eill := true } }) ∧
    (idx = 0x1 → step s = .next { s with agenda := rest,
                                         status := ⟨false, if v.getLsbD 1 then false else s.status.eill,
                                                    if v.getLsbD 2 then false else s.status.ebusy⟩ }) ∧
    (idx = 0x2 → step s = .next { s with agenda := rest, seed := v }) ∧
    (idx = 0x3 → step s = .next { s with agenda := rest, len := v }) ∧
    (idx = 0x4 → step s = .next { s with agenda := rest, digest := v }) ∧
    (0x5 ≤ idx → step s = .next { s with agenda := rest })

/-- R34 with the table of R20: a read gives the register's value, idle or busy, and changes no state of the block. The list
of values read is the model's (log 17). -/
def Obligations.HostReadGivesTheRegister : Prop :=
  ∀ (s : State) (idx : BitVec 4) (rest : List Move), s.agenda = .read idx :: rest →
    ∃ v : Word, step s = .next { s with agenda := rest, reads := (idx, v) :: s.reads } ∧
      (idx = 0x0 → v = 0) ∧
      (idx = 0x1 → v.toNat = s.status.busy.toNat + 2 * s.status.eill.toNat + 4 * s.status.ebusy.toNat) ∧
      (idx = 0x2 → v = s.seed) ∧ (idx = 0x3 → v = s.len) ∧ (idx = 0x4 → v = s.digest) ∧ (idx = 0x5 → v = s.time) ∧
      (idx = 0x6 → v.toNat = s.outlen.toNat) ∧ (idx = 0x7 → v = 0) ∧
      (idx = 0x8 → v = s.out0) ∧ (idx = 0x9 → v = s.out1) ∧ (idx = 0xA → v = s.out2) ∧ (idx = 0xB → v = s.out3) ∧
      (0xC ≤ idx → v = 0)

/-- R29 (the host's write is the agenda's next move, log 1): the reserved indices read 0; a write is dropped, with EBUSY if
the block is busy. -/
def Obligations.ReservedIndicesHoldNothing : Prop :=
  ∀ (s : State) (idx : BitVec 4) (v : Word) (rest : List Move), idx = 0x7 ∨ 0xC ≤ idx →
    s.readReg idx = 0 ∧
    (s.agenda = .write idx v :: rest →
      (s.status.busy = false → step s = .next { s with agenda := rest }) ∧
      (s.status.busy = true →
        step s = .next { s with agenda := rest, status := { s.status with ebusy := true } }))

/-- R203, R202: whatever happens while a command runs, as long as it runs the result registers, its operands in SEED and LEN,
CUR and the sample stay as they were at accept. -/
def Obligations.RegistersHoldStillWhileBusy : Prop :=
  ∀ s t : State, s.status.busy = true → step s = .next t → t.status.busy = true →
    t.results = s.results ∧ t.seed = s.seed ∧ t.len = s.len ∧ t.cur = s.cur ∧ t.ts = s.ts

/-- R201: a command ends by RETIRE or by reset, by nothing else. -/
def Obligations.OnlyRetireOrResetEndsACommand : Prop :=
  ∀ s t : State, s.status.busy = true → step s = .next t → t.status.busy = false →
    (∃ rest, s.agenda = .reset :: rest) ∨
    (s.ph = .retire ∧ (s.agenda = [] ∨ ∃ rest, s.agenda = .sequencer :: rest))

/-! ### The sequencer's steps (44_sequencer.md R187 to R196) -/

/-- R187: START, by command; for SEEDGEN the constant 0xe38f9bb36af82d47. -/
def Obligations.StartStepByCommand : Prop :=
  ∀ s : State, s.status.busy = true → s.ph = .start →
    (s.command = some .mix ∨ s.command = some .hashmix →
      sequencerStep s = some { s with acc := xor64 s.seed (mul64 s.len Config.G), idx := 0, ph := .words }) ∧
    (s.command = some .seedgen →
      sequencerStep s = some { s with acc := 0xe38f9bb36af82d47#64, idx := 0, ph := .words }) ∧
    (s.command = some .expand ∨ s.command = some .hashmixA → sequencerStep s = some { s with ph := .retire })

/-- R188, R189: WORD while IDX is below q, WORDS-EXIT at q; from IDX 0 the loop runs q times. -/
def Obligations.WordLoopRunsOncePerWord : Prop :=
  ∀ (s : State) (c : Instr) (seed len : Word), s.status.busy = true → s.ph = .words → s.command = some c →
    s.mixerOperands c = some (seed, len) →
    (s.idx < len >>> 3 →
      sequencerStep s = some { s with
        acc := mul64 (rotl64 (xor64 s.acc (if c = .seedgen then s.ts else s.memRead (8 * s.idx) 8)) 27) Config.M1,
        idx := s.idx + 1 }) ∧
    (s.idx = len >>> 3 →
      sequencerStep s = some { s with ph := if len &&& 7 ≠ 0 then .tail else .fin1 }) ∧
    (s.idx = 0 → ∃ acc, sequencerRun (len >>> 3).toNat s = some { s with acc := acc, idx := len >>> 3 })

/-- R190: TAIL; and in a legal state PH = TAIL implies that CUR is MIX or HASHMIX and r is 1 to 7. -/
def Obligations.TailStepAbsorbsTheTail : Prop :=
  ∀ s : State, s.status.busy = true → s.ph = .tail →
    ((s.command = some .mix ∨ s.command = some .hashmix) → 1 ≤ tailBytes s.len → tailBytes s.len ≤ 7 →
      sequencerStep s = some { s with
        acc := mul64 (rotl64 (xor64 s.acc (s.memRead (8 * (s.len >>> 3)) (tailBytes s.len))) 31) Config.M2,
        ph := .fin1 }) ∧
    (s.coherent = true →
      (s.command = some .mix ∨ s.command = some .hashmix) ∧ 1 ≤ tailBytes s.len ∧ tailBytes s.len ≤ 7)

/-- R191 to R195: the five finaliser steps; after FIN5 of a command that tracks the Mixer, ACC holds the Digest. -/
def Obligations.FinaliserSteps : Prop :=
  ∀ s : State, s.status.busy = true →
    (s.ph = .fin1 → sequencerStep s = some { s with acc := xorshift33 s.acc, ph := .fin2 }) ∧
    (s.ph = .fin2 → sequencerStep s = some { s with acc := mul64 s.acc Config.F1, ph := .fin3 }) ∧
    (s.ph = .fin3 → sequencerStep s = some { s with acc := xorshift33 s.acc, ph := .fin4 }) ∧
    (s.ph = .fin4 → sequencerStep s = some { s with acc := mul64 s.acc Config.F2, ph := .fin5 }) ∧
    (s.ph = .fin5 → sequencerStep s = some { s with acc := xorshift33 s.acc, ph := .retire }) ∧
    (s.ph = .fin5 → s.Inv →
      (s.command = some .mix ∨ s.command = some .hashmix → xorshift33 s.acc = mix s.message s.seed) ∧
      (s.command = some .seedgen → xorshift33 s.acc = seedgen s.ts))

/-- R196: RETIRE commits by CUR in one step and returns to idle. -/
def Obligations.RetireCommitsByCommand : Prop :=
  ∀ s : State, s.status.busy = true → s.ph = .retire →
    (s.command = some .mix →
      sequencerStep s = some { s with digest := s.acc, ph := .idle, status := { s.status with busy := false } }) ∧
    (s.command = some .hashmix →
      sequencerStep s = some { s with
        digest := s.acc, out0 := add64 s.acc (mul64 0 Config.G), out1 := add64 s.acc (mul64 1 Config.G),
        out2 := add64 s.acc (mul64 2 Config.G), out3 := add64 s.acc (mul64 3 Config.G), outlen := 32,
        ph := .idle, status := { s.status with busy := false } }) ∧
    (s.command = some .expand →
      sequencerStep s = some { s with
        out0 := add64 s.digest (mul64 0 Config.G), out1 := add64 s.digest (mul64 1 Config.G),
        out2 := add64 s.digest (mul64 2 Config.G), out3 := add64 s.digest (mul64 3 Config.G), outlen := 32,
        ph := .idle, status := { s.status with busy := false } }) ∧
    (s.command = some .hashmixA →
      sequencerStep s = some { s with outlen := 0, ph := .idle, status := { s.status with busy := false } }) ∧
    (s.command = some .seedgen →
      sequencerStep s = some { s with digest := s.acc, time := s.ts, ph := .idle,
                                      status := { s.status with busy := false } })

/-- The frame of the sequencer's steps (44 R206, 10 R38): operands, buffer, error flags and what stands around the block
never change; the result registers only in RETIRE. -/
def Obligations.SequencerStepFrame : Prop :=
  ∀ s t : State, sequencerStep s = some t →
    t.seed = s.seed ∧ t.len = s.len ∧ t.cur = s.cur ∧ t.ts = s.ts ∧ (∀ a, t.ibByte a = s.ibByte a) ∧
    t.status.eill = s.status.eill ∧ t.status.ebusy = s.status.ebusy ∧ t.timeIn = s.timeIn ∧ t.draws = s.draws ∧
    t.agenda = s.agenda ∧ t.reads = s.reads ∧ (s.ph ≠ .retire → t.results = s.results)

/-- R200: the buffer's bytes, the seed and the accumulator never select a path: two blocks with the same BUSY, PH, CUR, LEN
and IDX take steps to the same phase, index and BUSY, or neither has one. -/
def Obligations.DataNeverSelectsAPath : Prop :=
  ∀ s u : State, s.status.busy = u.status.busy → s.ph = u.ph → s.cur = u.cur → s.len = u.len → s.idx = u.idx →
    (sequencerStep s).map (fun t => (t.ph, t.idx, t.status.busy)) =
      (sequencerStep u).map (fun t => (t.ph, t.idx, t.status.busy))

/-- R53: the sequencer's step is the same whatever the buffer holds at LEN and above. -/
def Obligations.NothingReadAtOrBeyondLength : Prop :=
  ∀ (s : State) (m : Memory), (∀ a : Word, a < s.len → Memory.read m a.toNat = s.ibByte a) →
    sequencerStep { s with ib := m } = (sequencerStep s).map fun t => { t with ib := m }

/-! ### Whole runs -/

/-- R197: with nothing in between, a command accepted by an idle block is busy for exactly the reference number of steps. -/
def Obligations.ReferenceStepCounts : Prop :=
  ∀ (i : Instr) (s : State), s.status.busy = false → s.agenda = [] →
    ∃ t, exec i s = .next t ∧
      (∃ u, Host.Core.run core (referenceSteps s i) t = .next u ∧ u.status.busy = false) ∧
      ∀ m < referenceSteps s i, ∃ u, Host.Core.run core m t = .next u ∧ u.status.busy = true

/-- R197, R255: every running command retires. From every busy state of the invariant with no reset to come, the run reaches
RETIRE and takes it, or is refused at a store that changes the message (log 7); with no such store to come it retires; and
with resets to come too the block is idle at some step (by RETIRE or by the reset, 70 R241). The agenda running out is the
fairness of R197 (log 9). -/
def Obligations.EveryBusyBlockRetires : Prop :=
  ∀ s : State, s.Inv → s.status.busy = true →
    (Move.reset ∉ s.agenda →
      ∃ n, s.retiresAfter n ∨ Host.Core.run core n s = .refused .bufferChangedWhileBusy) ∧
    (Move.reset ∉ s.agenda → s.storesHarmless → ∃ n, s.retiresAfter n) ∧
    (s.storesHarmless → ∃ n t, Host.Core.run core n s = .next t ∧ t.status.busy = false)

/-- R198: whatever moves but reset interleave (the agenda, log 1), when the block is first idle again the result registers
hold what the pure functions give on the operands at accept. R198's premise, that the host does not write the message of a
running MIX or HASHMIX, is discharged by the model's refusal of such a store (log 7). -/
def Obligations.InterleavedCommandCommitsItsFunction : Prop :=
  ∀ (i : Instr) (s s1 t : State) (n : Nat), s.Inv → s.status.busy = false → Move.reset ∉ s.agenda →
    exec i s = .next s1 → Host.Core.run core n s1 = .next t →
    (∀ m < n, ∀ u, Host.Core.run core m s1 = .next u → u.status.busy = true) → t.status.busy = false →
    t.results = (s.afterCommand i).results ∧ t.seed = s.seed ∧ t.len = s.len

/-- The invariant of the machine (10 R27, R31, R32, R135; 44 R190): PH = IDLE exactly when BUSY = 0, CUR and IDX fit the
phase, OUTLEN is 0 or 32, the buffer is canonical, and ACC is the Mixer's partial result. Every step keeps it. -/
def Obligations.StepKeepsInvariant : Prop :=
  ∀ s t : State, s.Inv → step s = .next t → t.Inv

/-- The state right after reset meets the invariant. -/
def Obligations.ResetMeetsInvariant : Prop := State.reset.Inv

/-- R215 ("A model has no fault arm in any of the steps") with log 8: from a legal state no step ends in a fault. -/
def Obligations.LegalStatesNeverFault : Prop :=
  ∀ (s : State) (f : Fault), s.coherent = true → step s ≠ .fault f

/-- 70 R247 and D25 (log 7): a store that changes a byte of the running MIX's or HASHMIX's message is refused; every other
store happens, and then that byte of the buffer is the one stored and every other byte is as before (10 R38); no other step
is refused. The byte stored is read back in a buffer in canonical form, which StepKeepsInvariant keeps. -/
def Obligations.BufferChangeWhileHashingIsRefused : Prop :=
  (∀ (s : State) (a : Word) (b : Byte) (rest : List Move), s.agenda = .buffer a b :: rest →
    ((s.status.busy = true ∧ (s.command = some .mix ∨ s.command = some .hashmix) ∧ a < s.len ∧ b ≠ s.ibByte a →
      step s = .refused .bufferChangedWhileBusy) ∧
     (¬(s.status.busy = true ∧ (s.command = some .mix ∨ s.command = some .hashmix) ∧ a < s.len ∧ b ≠ s.ibByte a) →
      step s = .next { s with agenda := rest, ib := Memory.write s.ib a.toNat b } ∧
      (∀ x : Word, x ≠ a →
        State.ibByte { s with agenda := rest, ib := Memory.write s.ib a.toNat b } x = s.ibByte x) ∧
      (Memory.wf s.ib = true →
        State.ibByte { s with agenda := rest, ib := Memory.write s.ib a.toNat b } a = b ∧
        Memory.wf (Memory.write s.ib a.toNat b) = true)))) ∧
  (∀ (s : State) (r : Refusal), step s = .refused r →
    r = .bufferChangedWhileBusy ∧ ∃ a b rest, s.agenda = .buffer a b :: rest)

/-- R11, R33, R40: two states that differ only in hidden registers no rule reads before writing step alike, to two states
that again differ only so, and the host reads the same values. -/
def Obligations.DeadHiddenRegistersNeverMatter : Prop :=
  ∀ s u t : State, s.liveView = u.liveView → step s = .next t →
    ∃ v, step u = .next v ∧ t.liveView = v.liveView ∧ t.reads = v.reads ∧ t.results = v.results

/-- R158: MIX, then EXPAND with DIGEST left alone, leaves in DIGEST, OUT0 to OUT3 and OUTLEN what one HASHMIX leaves. -/
def Obligations.MixThenExpandEqualsHashmix : Prop :=
  ∀ s m e h s1 m' e1 h1 : State, s.status.busy = false →
    exec .mix s = .next s1 → sequencerRun (referenceSteps s .mix) s1 = some m →
    m'.status.busy = false → m'.digest = m.digest →
    exec .expand m' = .next e1 → sequencerRun (referenceSteps m' .expand) e1 = some e →
    exec .hashmix s = .next h1 → sequencerRun (referenceSteps s .hashmix) h1 = some h →
    e.digest = h.digest ∧ e.out0 = h.out0 ∧ e.out1 = h.out1 ∧ e.out2 = h.out2 ∧ e.out3 = h.out3 ∧
      e.outlen = h.outlen ∧ m.results = (s.afterCommand .mix).results

/-! ### The pure functions (40 to 43) -/

/-- R101, R102, R103 bit by bit. -/
def Obligations.PrimitivesBitByBit : Prop :=
  (∀ (a b : Word) (i : Nat), (xor64 a b).getLsbD i = (a.getLsbD i ^^ b.getLsbD i)) ∧
  (∀ (a : Word) (n i : Nat), n ≤ 63 → i ≤ 63 →
    (shr64 a n).getLsbD i = if i + n ≤ 63 then a.getLsbD (i + n) else false) ∧
  (∀ (a : Word) (n i : Nat), 1 ≤ n → n ≤ 63 → i ≤ 63 → (rotl64 a n).getLsbD ((i + n) % 64) = a.getLsbD i)

/-- R106: the bits of the xor-shift, its corner cases, and that it is its own inverse. -/
def Obligations.XorshiftIsItsOwnInverse : Prop :=
  ∀ a : Word,
    (∀ i, 31 ≤ i → i ≤ 63 → (xorshift33 a).getLsbD i = a.getLsbD i) ∧
    (∀ i, i ≤ 30 → (xorshift33 a).getLsbD i = (a.getLsbD i ^^ a.getLsbD (i + 33))) ∧
    xorshift33 0 = 0 ∧ (a.toNat < 2 ^ 33 → xorshift33 a = a) ∧ xorshift33 (xorshift33 a) = a

/-- R109: each step of the Mixer is a bijection of the accumulator, and the inverses of the four multipliers. -/
def Obligations.MixerStepsAreBijections : Prop :=
  (∀ w : Word, Function.Bijective fun a : Word => xor64 a w) ∧
  (∀ n : Nat, 1 ≤ n → n ≤ 63 → Function.Bijective fun a : Word => rotl64 a n) ∧
  (∀ k : Word, k.getLsbD 0 = true → Function.Bijective fun a : Word => mul64 a k) ∧
  Function.Bijective xorshift33 ∧
  mul64 Config.M1 0xc09c5fe5bd6dfddb#64 = 1 ∧ mul64 Config.M2 0xc47c8f6b6bafb41d#64 = 1 ∧
  mul64 Config.F1 0x4f74430c22a54005#64 = 1 ∧ mul64 Config.F2 0x9cb4b2f8129337db#64 = 1

/-- R136: for a fixed buffer, `seed -> mix(data, seed)` is a bijection of the 64-bit values. -/
def Obligations.MixIsBijectiveInTheSeed : Prop :=
  ∀ data : List Byte, Function.Bijective fun seed : Word => mix data seed

/-- R133: the empty input. -/
def Obligations.EmptyInputIsFinalisedSeed : Prop :=
  (∀ seed : Word, mix [] seed = fmix seed) ∧ mix [] 0 = 0 ∧ mix [] 1 = 0xb456bcfc34c2cb2c#64 ∧
  mix [] 0xffffffffffffffff#64 = 0x64b5720b4b825f21#64

/-- R137 (b): two one-word buffers with `s1 ^ w1 = s2 ^ w2` collide. -/
def Obligations.EqualFirstXorCollides : Prop :=
  ∀ (d1 d2 : List Byte) (s1 s2 : Word), d1.length = 8 → d2.length = 8 →
    xor64 s1 (leWord d1) = xor64 s2 (leWord d2) → mix d1 s1 = mix d2 s2

/-- R51: the bytes of MemRead in place, zeros above. R51 defines MemRead for `a + n <= x[LEN]`, which is among the cases here;
for other a the statement is the model's choice (log 20: the index wraps). -/
def Obligations.MemReadIsLittleEndian : Prop :=
  ∀ (s : State) (a : Word) (n : Nat), 1 ≤ n → n ≤ 8 →
    (∀ j < n, (s.memRead a n).extractLsb' (8 * j) 8 = s.ibByte (a + BitVec.ofNat 64 j)) ∧
    (∀ i, 8 * n ≤ i → (s.memRead a n).getLsbD i = false)

/-- R57: MemWrite on the output byte view, byte by byte, and that with `a = 8*i`, `n = 8` it is `x[OUT<i>] <- word_i`. -/
def Obligations.MemWriteIsTheOutRegisterWrite : Prop :=
  (∀ (s : State) (a n k : Nat) (v : Word), n ≤ 8 → a + n ≤ 32 → k < 32 →
    (s.memWrite a n v).obByte k = if a ≤ k ∧ k < a + n then v.extractLsb' (8 * (k - a)) 8 else s.obByte k) ∧
  (∀ (s : State) (v : Word),
    s.memWrite 0 8 v = { s with out0 := v } ∧ s.memWrite 8 8 v = { s with out1 := v } ∧
    s.memWrite 16 8 v = { s with out2 := v } ∧ s.memWrite 24 8 v = { s with out3 := v })

/-- R58: the bytes of the sample, and that reading them back gives the sample. -/
def Obligations.SampleBytesReadBack : Prop :=
  ∀ t : Word, (wordBytesOf t).length = 8 ∧
    (∀ j < 8, (wordBytesOf t)[j]? = some (t.extractLsb' (8 * j) 8)) ∧ leWord (wordBytesOf t) = t

/-- R173: the initial accumulator, the closed form of `seedgen`, and that it is a bijection. -/
def Obligations.SeedgenClosedForm : Prop :=
  xor64 Config.KSEED (mul64 8 Config.G) = 0xe38f9bb36af82d47#64 ∧
  (∀ t : Word, seedgen t = mix (wordBytesOf t) Config.KSEED ∧
    seedgen t = fmix (mul64 (rotl64 (xor64 0xe38f9bb36af82d47#64 t) 27) Config.M1)) ∧
  Function.Bijective seedgen

/-- R152, R153: the 32 bytes OB of a state that holds the expansion are `expand(digest)`, always 32, and two digests never
give the same bytes; the example `expand(0)`. -/
def Obligations.ExpandIsThirtyTwoBytesAndInjective : Prop :=
  (∀ (s : State) (d : Word), (s.holdingExpansion d).obBytes = expand d ∧
    s.holdingExpansion d = { (s.memWrite 0 8 (expandWord d 0) |>.memWrite 8 8 (expandWord d 1)
      |>.memWrite 16 8 (expandWord d 2) |>.memWrite 24 8 (expandWord d 3)) with outlen := 32 }) ∧
  (∀ d : Word, (expand d).length = 32) ∧
  expand 0 = [0x00, 0x00, 0x00, 0x00, 0x00, 0x00, 0x00, 0x00, 0x15, 0x7c, 0x4a, 0x7f, 0xb9, 0x79, 0x37, 0x9e,
              0x2a, 0xf8, 0x94, 0xfe, 0x72, 0xf3, 0x6e, 0x3c, 0x3f, 0x74, 0xdf, 0x7d, 0x2c, 0x6d, 0xa6, 0xda] ∧
  (∀ d1 d2 : Word, d1 ≠ d2 → expand d1 ≠ expand d2)

/-- R36 with the two's complement of G2 (PRESUMED, log 12): a signed 64-bit value survives the two reinterpretations. -/
def Obligations.SignedReinterpretationRoundTrip : Prop :=
  (∀ z : Int, -(2 ^ 63) ≤ z → z < 2 ^ 63 → signedReading (fingerprintBits z) = z) ∧
  fingerprintBits (-1) = 0xffffffffffffffff#64 ∧
  signedReading 0x9272c9d2bae872fe#64 = -7894025289910947074

/-! ### Reset (10_state.md R40, 70 R240, R241) -/

/-- R40: the values the table states; the four hidden registers it leaves unspecified are not named. -/
def Obligations.ResetTable : Prop :=
  State.reset.status = ⟨false, false, false⟩ ∧ State.reset.seed = 0 ∧ State.reset.len = 0 ∧ State.reset.digest = 0 ∧
  State.reset.time = 0 ∧ State.reset.outlen = 0 ∧ State.reset.out0 = 0 ∧ State.reset.out1 = 0 ∧ State.reset.out2 = 0 ∧
  State.reset.out3 = 0 ∧ State.reset.readReg 0x0 = 0 ∧ State.reset.ph = .idle

/-- R240, R241: reset at any instant, idle or busy: the table's values, nothing committed, the buffer and the time input
untouched; some value in each hidden register. -/
def Obligations.ResetEventAtAnyInstant : Prop :=
  ∀ (s : State) (rest : List Move), s.agenda = .reset :: rest →
    ∃ acc idx cur ts, step s = .next
      { status := ⟨false, false, false⟩, seed := 0, len := 0, digest := 0, time := 0, outlen := 0, out0 := 0, out1 := 0,
        out2 := 0, out3 := 0, ph := .idle, cur := cur, idx := idx, acc := acc, ts := ts, ib := s.ib,
        timeIn := s.timeIn, draws := s.draws + 1, agenda := rest, reads := s.reads }

/-! ### Several instances and the call boundary -/

/-- 20 R67, 60 R229: a step of one instance is that instance's step and leaves every other as it was. Its draws of free
values are numbered on from the system's count, which goes up by at most one, so no number is drawn twice (log 5, 14). That a host
store to one instance's buffer leaves the others' alone is the model's choice (log 23). -/
def Obligations.InstancesShareNothing : Prop :=
  ∀ (y z : System) (k j : Nat), systemStep k y = some (.next z) →
    z.blocks.length = y.blocks.length ∧ (j ≠ k → z.blocks[j]? = y.blocks[j]?) ∧
    (∃ s t, y.blocks[k]? = some s ∧ step { s with draws := y.draws } = .next t ∧ z.blocks[k]? = some t ∧
      z.draws = t.draws) ∧
    (z.draws = y.draws ∨ z.draws = y.draws + 1)

/-- 30 R90, 42 R155: the pseudo-instruction `customhashmix` on an idle block: its last five reads are OUTLEN 32 and the four
words of the message's digest, the message being the n bytes the host placed. The interleaving of `wait` is the model's
(log 16); the fingerprint's bits are its two's complement, presumed (log 12), modulo 2^64. -/
def Obligations.CustomHashMixReturnsTheExpansion : Prop :=
  ∀ (s : State) (fp : Int) (n d : Word), s.status.busy = false → s.agenda = [] →
    d = mix (s.ibBytes 0 n.toNat) (fingerprintBits fp) →
    ∃ k t, Host.Core.run core k (s.withScript [.customhashmix fp n]) = .next t ∧ t.status.busy = false ∧
      t.agenda = [] ∧
      t.reads.take 5 = [(0xB, add64 d (mul64 3 Config.G)), (0xA, add64 d (mul64 2 Config.G)),
        (0x9, add64 d (mul64 1 Config.G)), (0x8, add64 d (mul64 0 Config.G)), (0x6, 32)]

/-- 30 R90, 43 R176: the pseudo-instruction `gethardwareseed` on an idle block reads `seedgen` of the sample, which is the
announced time if there is one (else a free value, log 4). That `wait` gives the sequencer its turns, so that the script
ends, is the model's choice (log 16). -/
def Obligations.GetHardwareSeedReturnsTheSeed : Prop :=
  ∀ s : State, s.status.busy = false → s.agenda = [] →
    ∃ k t, Host.Core.run core k (s.withScript [.gethardwareseed]) = .next t ∧ t.status.busy = false ∧
      t.agenda = [] ∧ t.reads.head? = some (0x4, seedgen s.sample) ∧ t.time = s.sample
end

