-- ==== Sys2Proof/Laws/Memory.lean ====
section
/-! SUPPORT. The input buffer: a read after a write, and the canonical form that every store keeps. -/

namespace Sys2Proof.Machine

theorem Memory.wfFrom_mono {lo lo' : Nat} {m : Memory} (h : lo' ≤ lo) (hm : Memory.wfFrom lo m = true) :
    Memory.wfFrom lo' m = true := by
  cases m with
  | nil => rfl
  | cons e m =>
    simp only [Memory.wfFrom, Bool.and_eq_true, decide_eq_true_eq] at hm ⊢
    exact ⟨⟨⟨h.trans hm.1.1.1, hm.1.1.2⟩, hm.1.2⟩, hm.2⟩

/-- Below the first listed address nothing is listed. -/
theorem Memory.read_of_lt {lo : Nat} {m : Memory} {a : Nat} (hm : Memory.wfFrom lo m = true) (h : a < lo) :
    Memory.read m a = Memory.unlisted := by
  induction m generalizing lo with
  | nil => rfl
  | cons e m ih =>
    simp only [Memory.wfFrom, Bool.and_eq_true, decide_eq_true_eq] at hm
    rw [Memory.read, if_neg (by omega)]
    exact ih hm.2 (by omega)

theorem Memory.read_entry_ne {m : Memory} {a a' : Nat} {b : Byte} (h : a' ≠ a) :
    Memory.read (Memory.entry a b m) a' = Memory.read m a' := by
  unfold Memory.entry
  split
  · rfl
  · rw [Memory.read, if_neg (Ne.symm h)]

/-- A store leaves every other address alone. -/
theorem Memory.read_write_ne {m : Memory} {a a' : Nat} {b : Byte} (h : a' ≠ a) :
    Memory.read (Memory.write m a b) a' = Memory.read m a' := by
  induction m with
  | nil => exact Memory.read_entry_ne h
  | cons e m ih =>
    rw [Memory.write]
    split
    · exact Memory.read_entry_ne h
    · split
      · rw [Memory.read_entry_ne h, Memory.read, if_neg (by omega)]
      · rw [Memory.read, Memory.read, ih]

/-- A read after a store to the same address gives the byte stored. -/
theorem Memory.read_write_same {lo : Nat} {m : Memory} {a : Nat} {b : Byte} (hm : Memory.wfFrom lo m = true) :
    Memory.read (Memory.write m a b) a = b := by
  have entry : ∀ {m' : Memory}, Memory.wfFrom (a + 1) m' = true → Memory.read (Memory.entry a b m') a = b := by
    intro m' h
    unfold Memory.entry
    split
    · next hb => rw [Memory.read_of_lt h (Nat.lt_succ_self a), hb]
    · rw [Memory.read, if_pos rfl]
  induction m generalizing lo with
  | nil => exact entry rfl
  | cons e m ih =>
    have hm' := hm
    simp only [Memory.wfFrom, Bool.and_eq_true, decide_eq_true_eq] at hm
    rw [Memory.write]
    split
    · refine entry ?_
      simp only [Memory.wfFrom, Bool.and_eq_true, decide_eq_true_eq]
      exact ⟨⟨⟨by omega, hm.1.1.2⟩, hm.1.2⟩, hm.2⟩
    · split
      · next h => exact entry (h ▸ hm.2)
      · rw [Memory.read, if_neg (by omega)]
        exact ih hm.2

theorem Memory.wfFrom_entry {lo : Nat} {m : Memory} {a : Nat} {b : Byte} (hlo : lo ≤ a) (ha : a < 2 ^ 64)
    (hm : Memory.wfFrom (a + 1) m = true) : Memory.wfFrom lo (Memory.entry a b m) = true := by
  unfold Memory.entry
  split
  · exact Memory.wfFrom_mono (by omega) hm
  · next hb =>
    simp only [Memory.wfFrom, Bool.and_eq_true, decide_eq_true_eq]
    exact ⟨⟨⟨hlo, ha⟩, hb⟩, hm⟩

theorem Memory.wfFrom_write {lo : Nat} {m : Memory} {a : Nat} {b : Byte} (hlo : lo ≤ a) (ha : a < 2 ^ 64)
    (hm : Memory.wfFrom lo m = true) : Memory.wfFrom lo (Memory.write m a b) = true := by
  induction m generalizing lo with
  | nil => exact Memory.wfFrom_entry hlo ha rfl
  | cons e m ih =>
    simp only [Memory.wfFrom, Bool.and_eq_true, decide_eq_true_eq] at hm
    rw [Memory.write]
    split
    · refine Memory.wfFrom_entry hlo ha ?_
      simp only [Memory.wfFrom, Bool.and_eq_true, decide_eq_true_eq]
      exact ⟨⟨⟨by omega, hm.1.1.2⟩, hm.1.2⟩, hm.2⟩
    · split
      · next h => exact Memory.wfFrom_entry hlo ha (h ▸ hm.2)
      · simp only [Memory.wfFrom, Bool.and_eq_true, decide_eq_true_eq]
        exact ⟨⟨⟨hm.1.1.1, hm.1.1.2⟩, hm.1.2⟩, ih (by omega) hm.2⟩

/-- Every store of the host keeps the canonical form. -/
theorem Memory.wf_write {m : Memory} {a : Word} {b : Byte} (hm : Memory.wf m = true) :
    Memory.wf (Memory.write m a.toNat b) = true :=
  Memory.wfFrom_write (Nat.zero_le _) a.isLt hm

/-- Two buffers in canonical form that read alike at every address are the same list. -/
theorem Memory.eq_of_read {lo : Nat} {m m' : Memory} (hm : Memory.wfFrom lo m = true)
    (hm' : Memory.wfFrom lo m' = true) (h : ∀ a, Memory.read m a = Memory.read m' a) : m = m' := by
  induction m generalizing lo m' with
  | nil =>
    cases m' with
    | nil => rfl
    | cons e m' =>
      simp only [Memory.wfFrom, Bool.and_eq_true, decide_eq_true_eq] at hm'
      have : Memory.unlisted = e.2 := by simpa [Memory.read] using h e.1
      exact absurd this.symm hm'.1.2
  | cons e m ih =>
    have he := hm
    simp only [Memory.wfFrom, Bool.and_eq_true, decide_eq_true_eq] at hm
    cases m' with
    | nil =>
      have : e.2 = Memory.unlisted := by simpa [Memory.read] using h e.1
      exact absurd this hm.1.2
    | cons e' m' =>
      have he' := hm'
      simp only [Memory.wfFrom, Bool.and_eq_true, decide_eq_true_eq] at hm'
      obtain ⟨k, b⟩ := e
      obtain ⟨k', b'⟩ := e'
      have hk : k = k' := by
        rcases Nat.lt_trichotomy k k' with hlt | heq | hgt
        · have := h k
          rw [Memory.read, if_pos rfl, Memory.read, if_neg (by omega),
            Memory.read_of_lt hm'.2 (by simp only; omega)] at this
          exact absurd this hm.1.2
        · exact heq
        · have := h k'
          rw [Memory.read, if_neg (by omega), Memory.read_of_lt hm.2 (by simp only; omega), Memory.read,
            if_pos rfl] at this
          exact absurd this.symm hm'.1.2
      subst hk
      have hb : b = b' := by simpa [Memory.read] using h k
      subst hb
      congr 1
      refine ih hm.2 hm'.2 fun a => ?_
      by_cases ha : k = a
      · subst ha
        rw [Memory.read_of_lt hm.2 (Nat.lt_succ_self _), Memory.read_of_lt hm'.2 (Nat.lt_succ_self _)]
      · simpa [Memory.read, ha] using h a

/-- The byte stored is the byte read back. -/
theorem ibByte_storeBuffer_same {a : Word} {b : Byte} {s : State} (h : Memory.wf s.ib = true) :
    (s.storeBuffer a b).ibByte a = b := Memory.read_write_same h

/-- A store leaves every other byte of the buffer alone. -/
theorem ibByte_storeBuffer_ne {a a' : Word} {b : Byte} {s : State} (h : a' ≠ a) :
    (s.storeBuffer a b).ibByte a' = s.ibByte a' :=
  Memory.read_write_ne fun e => h (BitVec.eq_of_toNat_eq e)

/-- Storing the byte that is there already changes no byte. -/
theorem ibByte_storeBuffer_idle {a a' : Word} {s : State} (h : Memory.wf s.ib = true) :
    (s.storeBuffer a (s.ibByte a)).ibByte a' = s.ibByte a' := by
  by_cases e : a' = a
  · rw [e, ibByte_storeBuffer_same h]
  · exact ibByte_storeBuffer_ne e

end Sys2Proof.Machine
end

