-- ==== Sys2Proof/Laws/Decode.lean ====
section
/-! SUPPORT. The decoder on the words the encoder makes, and the command a `CUR` register names. -/

namespace Sys2Proof

/-- The decoder reads back every command's word. -/
theorem decode_encodeWrite (i : Instr) : decode (encodeWrite i) = .ok i := by cases i <;> rfl

end Sys2Proof

namespace Sys2Proof.Machine

/-- `CUR` holding a command's word names that command. -/
theorem command_of_cur {s : State} {i : Instr} (h : s.cur = encode i) : s.command = some i := by
  rw [State.command, h]
  exact congrArg Except.toOption (decode_encodeWrite i)

@[simp] theorem command_accept (i : Instr) (s : State) : (s.accept i).command = some i := command_of_cur rfl

/-- The command depends on `CUR` alone. -/
theorem command_congr {s t : State} (h : t.cur = s.cur) : t.command = s.command := by
  rw [State.command, h, State.command]

end Sys2Proof.Machine
end

