-- ==== Sys2Proof/Laws/Words.lean ====
section
/-! SUPPORT. Bytes and words: lengths, the split of a message into full words and a tail, the bytes of a word, and that a
word read from the buffer depends on its bytes alone. -/

namespace Sys2Proof.Machine

@[simp] theorem ibBytes_length (s : State) (a : Word) (n : Nat) : (s.ibBytes a n).length = n := by
  simp [State.ibBytes]

@[simp] theorem message_length (s : State) : s.message.length = s.len.toNat := ibBytes_length _ _ _

@[simp] theorem wordBytesOf_length (v : Word) : (wordBytesOf v).length = 8 := by simp [wordBytesOf]

@[simp] theorem fullWords_toNat (len : Word) : (fullWords len).toNat = len.toNat / 8 := by
  simp [fullWords, Nat.shiftRight_eq_div_pow]

@[simp] theorem tailBytes_eq (len : Word) : tailBytes len = len.toNat % 8 := by
  have : (len &&& 7#64).toNat = len.toNat % 2 ^ 3 := by
    rw [BitVec.toNat_and]
    exact Nat.and_two_pow_sub_one_eq_mod len.toNat 3
  exact this

/-- Reading bytes a, ..., a+n-1 depends on those bytes alone. -/
theorem ibBytes_congr {s t : State} {a : Word} {n : Nat}
    (h : ∀ j < n, t.ibByte (a + BitVec.ofNat 64 j) = s.ibByte (a + BitVec.ofNat 64 j)) :
    t.ibBytes a n = s.ibBytes a n :=
  List.map_congr_left fun j hj => h j (List.mem_range.mp hj)

theorem memRead_congr {s t : State} {a : Word} {n : Nat}
    (h : ∀ j < n, t.ibByte (a + BitVec.ofNat 64 j) = s.ibByte (a + BitVec.ofNat 64 j)) :
    t.memRead a n = s.memRead a n := congrArg leWord (ibBytes_congr h)

/-- The rounds over k words depend on those words alone. -/
theorem absorb_congr {w w' : Nat → Word} {k : Nat} {a : Word} (h : ∀ j < k, w j = w' j) :
    absorb w k a = absorb w' k a := by
  induction k with
  | zero => rfl
  | succ k ih => rw [absorb, absorb, ih fun j hj => h j (by omega), h k (by omega)]

/-- The part of a run of bytes from byte m on. -/
theorem ibBytes_drop (s : State) (a : Word) (n m : Nat) :
    (s.ibBytes a n).drop m = s.ibBytes (a + BitVec.ofNat 64 m) (n - m) := by
  apply List.ext_getElem
  · simp
  · intro i h1 h2
    simp only [State.ibBytes, List.getElem_drop, List.getElem_map, List.getElem_range]
    rw [BitVec.add_assoc, ← BitVec.ofNat_add]

/-- The first m bytes of a run. -/
theorem ibBytes_take (s : State) (a : Word) {n m : Nat} (h : m ≤ n) : (s.ibBytes a n).take m = s.ibBytes a m := by
  apply List.ext_getElem
  · simp [h]
  · intro i h1 h2
    simp [State.ibBytes]

theorem eight_mul_ofNat (k : Nat) : BitVec.ofNat 64 (8 * k) = 8 * BitVec.ofNat 64 k := by
  rw [BitVec.ofNat_mul]; rfl

/-- Full word k of the message is `MemRead(8k, 8)` (20_memory.md R52). -/
theorem dataWord_message {s : State} {k : Nat} (h : k < s.len.toNat / 8) :
    dataWord s.message k = s.memRead (8 * BitVec.ofNat 64 k) 8 := by
  rw [dataWord, State.message, ibBytes_drop, ibBytes_take _ _ (by omega), State.memRead, eight_mul_ofNat]
  simp

/-- The bytes after the last full word are `MemRead(8q, r)` (20_memory.md R53). -/
theorem message_tail (s : State) :
    leWord (s.message.drop (8 * (s.message.length / 8))) = s.memRead (8 * fullWords s.len) (tailBytes s.len) := by
  have h : 8 * fullWords s.len = BitVec.ofNat 64 (8 * (s.len.toNat / 8)) := by
    rw [eight_mul_ofNat, ← fullWords_toNat, BitVec.ofNat_toNat, BitVec.setWidth_eq]
  have hr : s.len.toNat - 8 * (s.len.toNat / 8) = s.len.toNat % 8 := by omega
  rw [message_length, State.message, ibBytes_drop, State.memRead, h, tailBytes_eq, hr]
  simp

theorem leNat_append (xs ys : List Byte) : leNat (xs ++ ys) = leNat xs + 256 ^ xs.length * leNat ys := by
  induction xs with
  | nil => simp [leNat]
  | cons b xs ih => simp only [List.cons_append, leNat, ih, List.length_cons, Nat.pow_succ]; ring

theorem byteOf_toNat (v : Word) (j : Nat) : (byteOf v j).toNat = v.toNat / 256 ^ j % 256 := by
  rw [byteOf, BitVec.extractLsb'_toNat, Nat.shiftRight_eq_div_pow, Nat.pow_mul]

/-- The first n bytes of a word make the word modulo 256^n. -/
theorem leNat_bytes (v : Word) (n : Nat) : leNat ((List.range n).map (byteOf v)) = v.toNat % 256 ^ n := by
  induction n with
  | zero => simp [leNat, Nat.mod_one]
  | succ n ih =>
    rw [List.range_succ, List.map_append, leNat_append, ih]
    simp only [List.map_cons, List.map_nil, leNat, byteOf_toNat, List.length_map, List.length_range, Nat.mul_zero,
      Nat.add_zero]
    rw [Nat.pow_succ, Nat.mod_mul]

end Sys2Proof.Machine
end

