-- ==== Sys2Proof/Laws/Mixer.lean ====
section
/-! SUPPORT. The Mixer on the block's operands is the pure function of the rules: `mix` of the message for MIX and HASHMIX,
`seedgen` of the sample for SEEDGEN. -/

namespace Sys2Proof.Machine

/-- The commands that read the input buffer. -/
theorem mixerOperands_buffer {s : State} {c : Instr} (h : c = .mix ∨ c = .hashmix) :
    s.mixerOperands c = some (s.seed, s.len) := by rcases h with rfl | rfl <;> rfl

theorem fullWord_buffer {s : State} {c : Instr} (h : c = .mix ∨ c = .hashmix) (k : Word) :
    s.fullWord c k = s.memRead (8 * k) 8 := by rcases h with rfl | rfl <;> rfl

@[simp] theorem fullWord_seedgen (s : State) (k : Word) : s.fullWord .seedgen k = s.ts := if_pos rfl

theorem tailWord_buffer {s : State} {c : Instr} (h : c = .mix ∨ c = .hashmix) :
    s.tailWord c = if s.len.toNat % 8 = 0 then none else some (s.memRead (8 * fullWords s.len) (tailBytes s.len)) := by
  rw [State.tailWord, tailBytes_eq]
  by_cases e : s.len.toNat % 8 = 0
  · simp [e]
  · rw [if_pos ⟨h, e⟩, if_neg e]

theorem tailWord_other {s : State} {c : Instr} (h : ¬(c = .mix ∨ c = .hashmix)) : s.tailWord c = none := by
  rw [State.tailWord, if_neg fun e => h e.1]

/-- After all full words the accumulator is that of `mix` on the message (41_mixer.md R123). -/
theorem accWords_buffer {s : State} {c : Instr} (h : c = .mix ∨ c = .hashmix) :
    s.accWords c s.seed s.len =
      absorb (dataWord s.message) (s.message.length / 8) (initAcc s.seed (BitVec.ofNat 64 s.message.length)) := by
  rw [State.accWords, message_length, fullWords_toNat, BitVec.ofNat_toNat, BitVec.setWidth_eq]
  refine absorb_congr fun j hj => ?_
  rw [fullWord_buffer h, dataWord_message hj]

/-- After the tail decision too (R124, R125). -/
theorem accTail_buffer {s : State} {c : Instr} (h : c = .mix ∨ c = .hashmix) :
    s.accTail c s.seed s.len = absorbTail s.message
      (absorb (dataWord s.message) (s.message.length / 8) (initAcc s.seed (BitVec.ofNat 64 s.message.length))) := by
  rw [State.accTail, accWords_buffer h, tailWord_buffer h, absorbTail, message_tail, message_length]
  by_cases e : s.len.toNat % 8 = 0 <;> simp [e]

/-- The finaliser ends with the digest of the message (41_mixer.md R132). -/
theorem fmix_accTail_buffer {s : State} {c : Instr} (h : c = .mix ∨ c = .hashmix) :
    fmix (s.accTail c s.seed s.len) = mix s.message s.seed := by rw [accTail_buffer h, mix]

/-- The one full word of the sample's bytes is the sample (43_time_seed_generator.md R172). -/
theorem dataWord_wordBytesOf (t : Word) : dataWord (wordBytesOf t) 0 = t := by
  have h : ((wordBytesOf t).drop (8 * 0)).take 8 = wordBytesOf t := by simp [List.take_of_length_le]
  rw [dataWord, h, leWord, wordBytesOf, leNat_bytes, BitVec.ofNat_mod_two_pow_eq]
where
  BitVec.ofNat_mod_two_pow_eq : BitVec.ofNat 64 (t.toNat % 256 ^ 8) = t := by
    rw [Nat.mod_eq_of_lt (by have := t.isLt; omega), BitVec.ofNat_toNat, BitVec.setWidth_eq]

/-- The Mixer's run for SEEDGEN ends with `seedgen` of the sample (43_time_seed_generator.md R173). -/
theorem fmix_accTail_seedgen (s : State) : fmix (s.accTail .seedgen Config.KSEED 8) = seedgen s.ts := by
  have hw : s.accWords .seedgen Config.KSEED 8 = wordRound (initAcc Config.KSEED 8) s.ts := rfl
  have ht : s.accTail .seedgen Config.KSEED 8 = s.accWords .seedgen Config.KSEED 8 := rfl
  rw [ht, hw, seedgen, mix, absorbTail, wordBytesOf_length]
  have h1 : absorb (dataWord (wordBytesOf s.ts)) (8 / 8) (initAcc Config.KSEED (BitVec.ofNat 64 8)) =
      wordRound (initAcc Config.KSEED 8) s.ts := by
    show wordRound (initAcc Config.KSEED (BitVec.ofNat 64 8)) (dataWord (wordBytesOf s.ts) 0) = _
    rw [dataWord_wordBytesOf]
    rfl
  rw [h1]
  rfl

end Sys2Proof.Machine
end

