-- ==== Sys2Proof/Laws/State.lean ====
section
/-! SUPPORT. One lemma per field per update, each true by rfl: what an update does to a field it writes, and that it leaves
every other field alone. No proof unfolds a record update. -/

namespace Sys2Proof.Machine

section raiseEill
variable (s : State)
@[simp] theorem raiseEill_status : s.raiseEill.status = { s.status with eill := true } := rfl
@[simp] theorem raiseEill_seed : s.raiseEill.seed = s.seed := rfl
@[simp] theorem raiseEill_len : s.raiseEill.len = s.len := rfl
@[simp] theorem raiseEill_digest : s.raiseEill.digest = s.digest := rfl
@[simp] theorem raiseEill_time : s.raiseEill.time = s.time := rfl
@[simp] theorem raiseEill_outlen : s.raiseEill.outlen = s.outlen := rfl
@[simp] theorem raiseEill_out0 : s.raiseEill.out0 = s.out0 := rfl
@[simp] theorem raiseEill_out1 : s.raiseEill.out1 = s.out1 := rfl
@[simp] theorem raiseEill_out2 : s.raiseEill.out2 = s.out2 := rfl
@[simp] theorem raiseEill_out3 : s.raiseEill.out3 = s.out3 := rfl
@[simp] theorem raiseEill_ph : s.raiseEill.ph = s.ph := rfl
@[simp] theorem raiseEill_cur : s.raiseEill.cur = s.cur := rfl
@[simp] theorem raiseEill_idx : s.raiseEill.idx = s.idx := rfl
@[simp] theorem raiseEill_acc : s.raiseEill.acc = s.acc := rfl
@[simp] theorem raiseEill_ts : s.raiseEill.ts = s.ts := rfl
@[simp] theorem raiseEill_ib : s.raiseEill.ib = s.ib := rfl
@[simp] theorem raiseEill_timeIn : s.raiseEill.timeIn = s.timeIn := rfl
@[simp] theorem raiseEill_draws : s.raiseEill.draws = s.draws := rfl
@[simp] theorem raiseEill_agenda : s.raiseEill.agenda = s.agenda := rfl
@[simp] theorem raiseEill_reads : s.raiseEill.reads = s.reads := rfl
end raiseEill

section raiseEbusy
variable (s : State)
@[simp] theorem raiseEbusy_status : s.raiseEbusy.status = { s.status with ebusy := true } := rfl
@[simp] theorem raiseEbusy_seed : s.raiseEbusy.seed = s.seed := rfl
@[simp] theorem raiseEbusy_len : s.raiseEbusy.len = s.len := rfl
@[simp] theorem raiseEbusy_digest : s.raiseEbusy.digest = s.digest := rfl
@[simp] theorem raiseEbusy_time : s.raiseEbusy.time = s.time := rfl
@[simp] theorem raiseEbusy_outlen : s.raiseEbusy.outlen = s.outlen := rfl
@[simp] theorem raiseEbusy_out0 : s.raiseEbusy.out0 = s.out0 := rfl
@[simp] theorem raiseEbusy_out1 : s.raiseEbusy.out1 = s.out1 := rfl
@[simp] theorem raiseEbusy_out2 : s.raiseEbusy.out2 = s.out2 := rfl
@[simp] theorem raiseEbusy_out3 : s.raiseEbusy.out3 = s.out3 := rfl
@[simp] theorem raiseEbusy_ph : s.raiseEbusy.ph = s.ph := rfl
@[simp] theorem raiseEbusy_cur : s.raiseEbusy.cur = s.cur := rfl
@[simp] theorem raiseEbusy_idx : s.raiseEbusy.idx = s.idx := rfl
@[simp] theorem raiseEbusy_acc : s.raiseEbusy.acc = s.acc := rfl
@[simp] theorem raiseEbusy_ts : s.raiseEbusy.ts = s.ts := rfl
@[simp] theorem raiseEbusy_ib : s.raiseEbusy.ib = s.ib := rfl
@[simp] theorem raiseEbusy_timeIn : s.raiseEbusy.timeIn = s.timeIn := rfl
@[simp] theorem raiseEbusy_draws : s.raiseEbusy.draws = s.draws := rfl
@[simp] theorem raiseEbusy_agenda : s.raiseEbusy.agenda = s.agenda := rfl
@[simp] theorem raiseEbusy_reads : s.raiseEbusy.reads = s.reads := rfl
end raiseEbusy

section clearFlags
variable (v : Word) (s : State)
@[simp] theorem clearFlags_status : (s.clearFlags v).status = { s.status with eill := s.status.eill && !v.getLsbD 1, ebusy := s.status.ebusy && !v.getLsbD 2 } := rfl
@[simp] theorem clearFlags_seed : (s.clearFlags v).seed = s.seed := rfl
@[simp] theorem clearFlags_len : (s.clearFlags v).len = s.len := rfl
@[simp] theorem clearFlags_digest : (s.clearFlags v).digest = s.digest := rfl
@[simp] theorem clearFlags_time : (s.clearFlags v).time = s.time := rfl
@[simp] theorem clearFlags_outlen : (s.clearFlags v).outlen = s.outlen := rfl
@[simp] theorem clearFlags_out0 : (s.clearFlags v).out0 = s.out0 := rfl
@[simp] theorem clearFlags_out1 : (s.clearFlags v).out1 = s.out1 := rfl
@[simp] theorem clearFlags_out2 : (s.clearFlags v).out2 = s.out2 := rfl
@[simp] theorem clearFlags_out3 : (s.clearFlags v).out3 = s.out3 := rfl
@[simp] theorem clearFlags_ph : (s.clearFlags v).ph = s.ph := rfl
@[simp] theorem clearFlags_cur : (s.clearFlags v).cur = s.cur := rfl
@[simp] theorem clearFlags_idx : (s.clearFlags v).idx = s.idx := rfl
@[simp] theorem clearFlags_acc : (s.clearFlags v).acc = s.acc := rfl
@[simp] theorem clearFlags_ts : (s.clearFlags v).ts = s.ts := rfl
@[simp] theorem clearFlags_ib : (s.clearFlags v).ib = s.ib := rfl
@[simp] theorem clearFlags_timeIn : (s.clearFlags v).timeIn = s.timeIn := rfl
@[simp] theorem clearFlags_draws : (s.clearFlags v).draws = s.draws := rfl
@[simp] theorem clearFlags_agenda : (s.clearFlags v).agenda = s.agenda := rfl
@[simp] theorem clearFlags_reads : (s.clearFlags v).reads = s.reads := rfl
end clearFlags

section storeBuffer
variable (a : Word) (b : Byte) (s : State)
@[simp] theorem storeBuffer_status : (s.storeBuffer a b).status = s.status := rfl
@[simp] theorem storeBuffer_seed : (s.storeBuffer a b).seed = s.seed := rfl
@[simp] theorem storeBuffer_len : (s.storeBuffer a b).len = s.len := rfl
@[simp] theorem storeBuffer_digest : (s.storeBuffer a b).digest = s.digest := rfl
@[simp] theorem storeBuffer_time : (s.storeBuffer a b).time = s.time := rfl
@[simp] theorem storeBuffer_outlen : (s.storeBuffer a b).outlen = s.outlen := rfl
@[simp] theorem storeBuffer_out0 : (s.storeBuffer a b).out0 = s.out0 := rfl
@[simp] theorem storeBuffer_out1 : (s.storeBuffer a b).out1 = s.out1 := rfl
@[simp] theorem storeBuffer_out2 : (s.storeBuffer a b).out2 = s.out2 := rfl
@[simp] theorem storeBuffer_out3 : (s.storeBuffer a b).out3 = s.out3 := rfl
@[simp] theorem storeBuffer_ph : (s.storeBuffer a b).ph = s.ph := rfl
@[simp] theorem storeBuffer_cur : (s.storeBuffer a b).cur = s.cur := rfl
@[simp] theorem storeBuffer_idx : (s.storeBuffer a b).idx = s.idx := rfl
@[simp] theorem storeBuffer_acc : (s.storeBuffer a b).acc = s.acc := rfl
@[simp] theorem storeBuffer_ts : (s.storeBuffer a b).ts = s.ts := rfl
@[simp] theorem storeBuffer_ib : (s.storeBuffer a b).ib = Memory.write s.ib a.toNat b := rfl
@[simp] theorem storeBuffer_timeIn : (s.storeBuffer a b).timeIn = s.timeIn := rfl
@[simp] theorem storeBuffer_draws : (s.storeBuffer a b).draws = s.draws := rfl
@[simp] theorem storeBuffer_agenda : (s.storeBuffer a b).agenda = s.agenda := rfl
@[simp] theorem storeBuffer_reads : (s.storeBuffer a b).reads = s.reads := rfl
end storeBuffer

section hostRead
variable (i : BitVec 4) (s : State)
@[simp] theorem hostRead_status : (s.hostRead i).status = s.status := rfl
@[simp] theorem hostRead_seed : (s.hostRead i).seed = s.seed := rfl
@[simp] theorem hostRead_len : (s.hostRead i).len = s.len := rfl
@[simp] theorem hostRead_digest : (s.hostRead i).digest = s.digest := rfl
@[simp] theorem hostRead_time : (s.hostRead i).time = s.time := rfl
@[simp] theorem hostRead_outlen : (s.hostRead i).outlen = s.outlen := rfl
@[simp] theorem hostRead_out0 : (s.hostRead i).out0 = s.out0 := rfl
@[simp] theorem hostRead_out1 : (s.hostRead i).out1 = s.out1 := rfl
@[simp] theorem hostRead_out2 : (s.hostRead i).out2 = s.out2 := rfl
@[simp] theorem hostRead_out3 : (s.hostRead i).out3 = s.out3 := rfl
@[simp] theorem hostRead_ph : (s.hostRead i).ph = s.ph := rfl
@[simp] theorem hostRead_cur : (s.hostRead i).cur = s.cur := rfl
@[simp] theorem hostRead_idx : (s.hostRead i).idx = s.idx := rfl
@[simp] theorem hostRead_acc : (s.hostRead i).acc = s.acc := rfl
@[simp] theorem hostRead_ts : (s.hostRead i).ts = s.ts := rfl
@[simp] theorem hostRead_ib : (s.hostRead i).ib = s.ib := rfl
@[simp] theorem hostRead_timeIn : (s.hostRead i).timeIn = s.timeIn := rfl
@[simp] theorem hostRead_draws : (s.hostRead i).draws = s.draws := rfl
@[simp] theorem hostRead_agenda : (s.hostRead i).agenda = s.agenda := rfl
@[simp] theorem hostRead_reads : (s.hostRead i).reads = (i, s.readReg i) :: s.reads := rfl
end hostRead

section sampleTime
variable (s : State)
@[simp] theorem sampleTime_status : s.sampleTime.status = s.status := rfl
@[simp] theorem sampleTime_seed : s.sampleTime.seed = s.seed := rfl
@[simp] theorem sampleTime_len : s.sampleTime.len = s.len := rfl
@[simp] theorem sampleTime_digest : s.sampleTime.digest = s.digest := rfl
@[simp] theorem sampleTime_time : s.sampleTime.time = s.time := rfl
@[simp] theorem sampleTime_outlen : s.sampleTime.outlen = s.outlen := rfl
@[simp] theorem sampleTime_out0 : s.sampleTime.out0 = s.out0 := rfl
@[simp] theorem sampleTime_out1 : s.sampleTime.out1 = s.out1 := rfl
@[simp] theorem sampleTime_out2 : s.sampleTime.out2 = s.out2 := rfl
@[simp] theorem sampleTime_out3 : s.sampleTime.out3 = s.out3 := rfl
@[simp] theorem sampleTime_ph : s.sampleTime.ph = s.ph := rfl
@[simp] theorem sampleTime_cur : s.sampleTime.cur = s.cur := rfl
@[simp] theorem sampleTime_idx : s.sampleTime.idx = s.idx := rfl
@[simp] theorem sampleTime_acc : s.sampleTime.acc = s.acc := rfl
@[simp] theorem sampleTime_ts : s.sampleTime.ts = s.timeIn.getD (Config.timeSource s.draws) := rfl
@[simp] theorem sampleTime_ib : s.sampleTime.ib = s.ib := rfl
@[simp] theorem sampleTime_timeIn : s.sampleTime.timeIn = none := rfl
@[simp] theorem sampleTime_draws : s.sampleTime.draws = s.draws + 1 := rfl
@[simp] theorem sampleTime_agenda : s.sampleTime.agenda = s.agenda := rfl
@[simp] theorem sampleTime_reads : s.sampleTime.reads = s.reads := rfl
end sampleTime

section accept
variable (i : Instr) (s : State)
@[simp] theorem accept_status : (s.accept i).status = { s.status with busy := true } := rfl
@[simp] theorem accept_seed : (s.accept i).seed = s.seed := rfl
@[simp] theorem accept_len : (s.accept i).len = s.len := rfl
@[simp] theorem accept_digest : (s.accept i).digest = s.digest := rfl
@[simp] theorem accept_time : (s.accept i).time = s.time := rfl
@[simp] theorem accept_outlen : (s.accept i).outlen = s.outlen := rfl
@[simp] theorem accept_out0 : (s.accept i).out0 = s.out0 := rfl
@[simp] theorem accept_out1 : (s.accept i).out1 = s.out1 := rfl
@[simp] theorem accept_out2 : (s.accept i).out2 = s.out2 := rfl
@[simp] theorem accept_out3 : (s.accept i).out3 = s.out3 := rfl
@[simp] theorem accept_ph : (s.accept i).ph = .start := rfl
@[simp] theorem accept_cur : (s.accept i).cur = encode i := rfl
@[simp] theorem accept_idx : (s.accept i).idx = s.idx := rfl
@[simp] theorem accept_acc : (s.accept i).acc = s.acc := rfl
@[simp] theorem accept_ts : (s.accept i).ts = s.ts := rfl
@[simp] theorem accept_ib : (s.accept i).ib = s.ib := rfl
@[simp] theorem accept_timeIn : (s.accept i).timeIn = s.timeIn := rfl
@[simp] theorem accept_draws : (s.accept i).draws = s.draws := rfl
@[simp] theorem accept_agenda : (s.accept i).agenda = s.agenda := rfl
@[simp] theorem accept_reads : (s.accept i).reads = s.reads := rfl
end accept

section finish
variable (s : State)
@[simp] theorem finish_status : s.finish.status = { s.status with busy := false } := rfl
@[simp] theorem finish_seed : s.finish.seed = s.seed := rfl
@[simp] theorem finish_len : s.finish.len = s.len := rfl
@[simp] theorem finish_digest : s.finish.digest = s.digest := rfl
@[simp] theorem finish_time : s.finish.time = s.time := rfl
@[simp] theorem finish_outlen : s.finish.outlen = s.outlen := rfl
@[simp] theorem finish_out0 : s.finish.out0 = s.out0 := rfl
@[simp] theorem finish_out1 : s.finish.out1 = s.out1 := rfl
@[simp] theorem finish_out2 : s.finish.out2 = s.out2 := rfl
@[simp] theorem finish_out3 : s.finish.out3 = s.out3 := rfl
@[simp] theorem finish_ph : s.finish.ph = .idle := rfl
@[simp] theorem finish_cur : s.finish.cur = s.cur := rfl
@[simp] theorem finish_idx : s.finish.idx = s.idx := rfl
@[simp] theorem finish_acc : s.finish.acc = s.acc := rfl
@[simp] theorem finish_ts : s.finish.ts = s.ts := rfl
@[simp] theorem finish_ib : s.finish.ib = s.ib := rfl
@[simp] theorem finish_timeIn : s.finish.timeIn = s.timeIn := rfl
@[simp] theorem finish_draws : s.finish.draws = s.draws := rfl
@[simp] theorem finish_agenda : s.finish.agenda = s.agenda := rfl
@[simp] theorem finish_reads : s.finish.reads = s.reads := rfl
end finish

section finXor
variable (p : Phase) (s : State)
@[simp] theorem finXor_status : (finXor p s).status = s.status := rfl
@[simp] theorem finXor_seed : (finXor p s).seed = s.seed := rfl
@[simp] theorem finXor_len : (finXor p s).len = s.len := rfl
@[simp] theorem finXor_digest : (finXor p s).digest = s.digest := rfl
@[simp] theorem finXor_time : (finXor p s).time = s.time := rfl
@[simp] theorem finXor_outlen : (finXor p s).outlen = s.outlen := rfl
@[simp] theorem finXor_out0 : (finXor p s).out0 = s.out0 := rfl
@[simp] theorem finXor_out1 : (finXor p s).out1 = s.out1 := rfl
@[simp] theorem finXor_out2 : (finXor p s).out2 = s.out2 := rfl
@[simp] theorem finXor_out3 : (finXor p s).out3 = s.out3 := rfl
@[simp] theorem finXor_ph : (finXor p s).ph = p := rfl
@[simp] theorem finXor_cur : (finXor p s).cur = s.cur := rfl
@[simp] theorem finXor_idx : (finXor p s).idx = s.idx := rfl
@[simp] theorem finXor_acc : (finXor p s).acc = xorshift33 s.acc := rfl
@[simp] theorem finXor_ts : (finXor p s).ts = s.ts := rfl
@[simp] theorem finXor_ib : (finXor p s).ib = s.ib := rfl
@[simp] theorem finXor_timeIn : (finXor p s).timeIn = s.timeIn := rfl
@[simp] theorem finXor_draws : (finXor p s).draws = s.draws := rfl
@[simp] theorem finXor_agenda : (finXor p s).agenda = s.agenda := rfl
@[simp] theorem finXor_reads : (finXor p s).reads = s.reads := rfl
end finXor

section finMul
variable (k : Word) (p : Phase) (s : State)
@[simp] theorem finMul_status : (finMul k p s).status = s.status := rfl
@[simp] theorem finMul_seed : (finMul k p s).seed = s.seed := rfl
@[simp] theorem finMul_len : (finMul k p s).len = s.len := rfl
@[simp] theorem finMul_digest : (finMul k p s).digest = s.digest := rfl
@[simp] theorem finMul_time : (finMul k p s).time = s.time := rfl
@[simp] theorem finMul_outlen : (finMul k p s).outlen = s.outlen := rfl
@[simp] theorem finMul_out0 : (finMul k p s).out0 = s.out0 := rfl
@[simp] theorem finMul_out1 : (finMul k p s).out1 = s.out1 := rfl
@[simp] theorem finMul_out2 : (finMul k p s).out2 = s.out2 := rfl
@[simp] theorem finMul_out3 : (finMul k p s).out3 = s.out3 := rfl
@[simp] theorem finMul_ph : (finMul k p s).ph = p := rfl
@[simp] theorem finMul_cur : (finMul k p s).cur = s.cur := rfl
@[simp] theorem finMul_idx : (finMul k p s).idx = s.idx := rfl
@[simp] theorem finMul_acc : (finMul k p s).acc = mul64 s.acc k := rfl
@[simp] theorem finMul_ts : (finMul k p s).ts = s.ts := rfl
@[simp] theorem finMul_ib : (finMul k p s).ib = s.ib := rfl
@[simp] theorem finMul_timeIn : (finMul k p s).timeIn = s.timeIn := rfl
@[simp] theorem finMul_draws : (finMul k p s).draws = s.draws := rfl
@[simp] theorem finMul_agenda : (finMul k p s).agenda = s.agenda := rfl
@[simp] theorem finMul_reads : (finMul k p s).reads = s.reads := rfl
end finMul

section wordStep
variable (c : Instr) (s : State)
@[simp] theorem wordStep_status : (wordStep c s).status = s.status := rfl
@[simp] theorem wordStep_seed : (wordStep c s).seed = s.seed := rfl
@[simp] theorem wordStep_len : (wordStep c s).len = s.len := rfl
@[simp] theorem wordStep_digest : (wordStep c s).digest = s.digest := rfl
@[simp] theorem wordStep_time : (wordStep c s).time = s.time := rfl
@[simp] theorem wordStep_outlen : (wordStep c s).outlen = s.outlen := rfl
@[simp] theorem wordStep_out0 : (wordStep c s).out0 = s.out0 := rfl
@[simp] theorem wordStep_out1 : (wordStep c s).out1 = s.out1 := rfl
@[simp] theorem wordStep_out2 : (wordStep c s).out2 = s.out2 := rfl
@[simp] theorem wordStep_out3 : (wordStep c s).out3 = s.out3 := rfl
@[simp] theorem wordStep_ph : (wordStep c s).ph = s.ph := rfl
@[simp] theorem wordStep_cur : (wordStep c s).cur = s.cur := rfl
@[simp] theorem wordStep_idx : (wordStep c s).idx = s.idx + 1 := rfl
@[simp] theorem wordStep_acc : (wordStep c s).acc = wordRound s.acc (s.fullWord c s.idx) := rfl
@[simp] theorem wordStep_ts : (wordStep c s).ts = s.ts := rfl
@[simp] theorem wordStep_ib : (wordStep c s).ib = s.ib := rfl
@[simp] theorem wordStep_timeIn : (wordStep c s).timeIn = s.timeIn := rfl
@[simp] theorem wordStep_draws : (wordStep c s).draws = s.draws := rfl
@[simp] theorem wordStep_agenda : (wordStep c s).agenda = s.agenda := rfl
@[simp] theorem wordStep_reads : (wordStep c s).reads = s.reads := rfl
end wordStep

section wordsExitStep
variable (n : Word) (s : State)
@[simp] theorem wordsExitStep_status : (wordsExitStep n s).status = s.status := rfl
@[simp] theorem wordsExitStep_seed : (wordsExitStep n s).seed = s.seed := rfl
@[simp] theorem wordsExitStep_len : (wordsExitStep n s).len = s.len := rfl
@[simp] theorem wordsExitStep_digest : (wordsExitStep n s).digest = s.digest := rfl
@[simp] theorem wordsExitStep_time : (wordsExitStep n s).time = s.time := rfl
@[simp] theorem wordsExitStep_outlen : (wordsExitStep n s).outlen = s.outlen := rfl
@[simp] theorem wordsExitStep_out0 : (wordsExitStep n s).out0 = s.out0 := rfl
@[simp] theorem wordsExitStep_out1 : (wordsExitStep n s).out1 = s.out1 := rfl
@[simp] theorem wordsExitStep_out2 : (wordsExitStep n s).out2 = s.out2 := rfl
@[simp] theorem wordsExitStep_out3 : (wordsExitStep n s).out3 = s.out3 := rfl
@[simp] theorem wordsExitStep_ph : (wordsExitStep n s).ph = if tailBytes n ≠ 0 then .tail else .fin1 := rfl
@[simp] theorem wordsExitStep_cur : (wordsExitStep n s).cur = s.cur := rfl
@[simp] theorem wordsExitStep_idx : (wordsExitStep n s).idx = s.idx := rfl
@[simp] theorem wordsExitStep_acc : (wordsExitStep n s).acc = s.acc := rfl
@[simp] theorem wordsExitStep_ts : (wordsExitStep n s).ts = s.ts := rfl
@[simp] theorem wordsExitStep_ib : (wordsExitStep n s).ib = s.ib := rfl
@[simp] theorem wordsExitStep_timeIn : (wordsExitStep n s).timeIn = s.timeIn := rfl
@[simp] theorem wordsExitStep_draws : (wordsExitStep n s).draws = s.draws := rfl
@[simp] theorem wordsExitStep_agenda : (wordsExitStep n s).agenda = s.agenda := rfl
@[simp] theorem wordsExitStep_reads : (wordsExitStep n s).reads = s.reads := rfl
end wordsExitStep

section commitMix
variable (s : State)
@[simp] theorem commitMix_status : (commitMix s).status = s.status := rfl
@[simp] theorem commitMix_seed : (commitMix s).seed = s.seed := rfl
@[simp] theorem commitMix_len : (commitMix s).len = s.len := rfl
@[simp] theorem commitMix_digest : (commitMix s).digest = s.acc := rfl
@[simp] theorem commitMix_time : (commitMix s).time = s.time := rfl
@[simp] theorem commitMix_outlen : (commitMix s).outlen = s.outlen := rfl
@[simp] theorem commitMix_out0 : (commitMix s).out0 = s.out0 := rfl
@[simp] theorem commitMix_out1 : (commitMix s).out1 = s.out1 := rfl
@[simp] theorem commitMix_out2 : (commitMix s).out2 = s.out2 := rfl
@[simp] theorem commitMix_out3 : (commitMix s).out3 = s.out3 := rfl
@[simp] theorem commitMix_ph : (commitMix s).ph = s.ph := rfl
@[simp] theorem commitMix_cur : (commitMix s).cur = s.cur := rfl
@[simp] theorem commitMix_idx : (commitMix s).idx = s.idx := rfl
@[simp] theorem commitMix_acc : (commitMix s).acc = s.acc := rfl
@[simp] theorem commitMix_ts : (commitMix s).ts = s.ts := rfl
@[simp] theorem commitMix_ib : (commitMix s).ib = s.ib := rfl
@[simp] theorem commitMix_timeIn : (commitMix s).timeIn = s.timeIn := rfl
@[simp] theorem commitMix_draws : (commitMix s).draws = s.draws := rfl
@[simp] theorem commitMix_agenda : (commitMix s).agenda = s.agenda := rfl
@[simp] theorem commitMix_reads : (commitMix s).reads = s.reads := rfl
end commitMix

section commitExpansion
variable (d : Word) (s : State)
@[simp] theorem commitExpansion_status : (commitExpansion d s).status = s.status := rfl
@[simp] theorem commitExpansion_seed : (commitExpansion d s).seed = s.seed := rfl
@[simp] theorem commitExpansion_len : (commitExpansion d s).len = s.len := rfl
@[simp] theorem commitExpansion_digest : (commitExpansion d s).digest = s.digest := rfl
@[simp] theorem commitExpansion_time : (commitExpansion d s).time = s.time := rfl
@[simp] theorem commitExpansion_outlen : (commitExpansion d s).outlen = Config.outBytes := rfl
@[simp] theorem commitExpansion_out0 : (commitExpansion d s).out0 = expandWord d 0 := rfl
@[simp] theorem commitExpansion_out1 : (commitExpansion d s).out1 = expandWord d 1 := rfl
@[simp] theorem commitExpansion_out2 : (commitExpansion d s).out2 = expandWord d 2 := rfl
@[simp] theorem commitExpansion_out3 : (commitExpansion d s).out3 = expandWord d 3 := rfl
@[simp] theorem commitExpansion_ph : (commitExpansion d s).ph = s.ph := rfl
@[simp] theorem commitExpansion_cur : (commitExpansion d s).cur = s.cur := rfl
@[simp] theorem commitExpansion_idx : (commitExpansion d s).idx = s.idx := rfl
@[simp] theorem commitExpansion_acc : (commitExpansion d s).acc = s.acc := rfl
@[simp] theorem commitExpansion_ts : (commitExpansion d s).ts = s.ts := rfl
@[simp] theorem commitExpansion_ib : (commitExpansion d s).ib = s.ib := rfl
@[simp] theorem commitExpansion_timeIn : (commitExpansion d s).timeIn = s.timeIn := rfl
@[simp] theorem commitExpansion_draws : (commitExpansion d s).draws = s.draws := rfl
@[simp] theorem commitExpansion_agenda : (commitExpansion d s).agenda = s.agenda := rfl
@[simp] theorem commitExpansion_reads : (commitExpansion d s).reads = s.reads := rfl
end commitExpansion

section commitHashmixA
variable (s : State)
@[simp] theorem commitHashmixA_status : (commitHashmixA s).status = s.status := rfl
@[simp] theorem commitHashmixA_seed : (commitHashmixA s).seed = s.seed := rfl
@[simp] theorem commitHashmixA_len : (commitHashmixA s).len = s.len := rfl
@[simp] theorem commitHashmixA_digest : (commitHashmixA s).digest = s.digest := rfl
@[simp] theorem commitHashmixA_time : (commitHashmixA s).time = s.time := rfl
@[simp] theorem commitHashmixA_outlen : (commitHashmixA s).outlen = 0 := rfl
@[simp] theorem commitHashmixA_out0 : (commitHashmixA s).out0 = s.out0 := rfl
@[simp] theorem commitHashmixA_out1 : (commitHashmixA s).out1 = s.out1 := rfl
@[simp] theorem commitHashmixA_out2 : (commitHashmixA s).out2 = s.out2 := rfl
@[simp] theorem commitHashmixA_out3 : (commitHashmixA s).out3 = s.out3 := rfl
@[simp] theorem commitHashmixA_ph : (commitHashmixA s).ph = s.ph := rfl
@[simp] theorem commitHashmixA_cur : (commitHashmixA s).cur = s.cur := rfl
@[simp] theorem commitHashmixA_idx : (commitHashmixA s).idx = s.idx := rfl
@[simp] theorem commitHashmixA_acc : (commitHashmixA s).acc = s.acc := rfl
@[simp] theorem commitHashmixA_ts : (commitHashmixA s).ts = s.ts := rfl
@[simp] theorem commitHashmixA_ib : (commitHashmixA s).ib = s.ib := rfl
@[simp] theorem commitHashmixA_timeIn : (commitHashmixA s).timeIn = s.timeIn := rfl
@[simp] theorem commitHashmixA_draws : (commitHashmixA s).draws = s.draws := rfl
@[simp] theorem commitHashmixA_agenda : (commitHashmixA s).agenda = s.agenda := rfl
@[simp] theorem commitHashmixA_reads : (commitHashmixA s).reads = s.reads := rfl
end commitHashmixA

section commitSeedgen
variable (s : State)
@[simp] theorem commitSeedgen_status : (commitSeedgen s).status = s.status := rfl
@[simp] theorem commitSeedgen_seed : (commitSeedgen s).seed = s.seed := rfl
@[simp] theorem commitSeedgen_len : (commitSeedgen s).len = s.len := rfl
@[simp] theorem commitSeedgen_digest : (commitSeedgen s).digest = s.acc := rfl
@[simp] theorem commitSeedgen_time : (commitSeedgen s).time = s.ts := rfl
@[simp] theorem commitSeedgen_outlen : (commitSeedgen s).outlen = s.outlen := rfl
@[simp] theorem commitSeedgen_out0 : (commitSeedgen s).out0 = s.out0 := rfl
@[simp] theorem commitSeedgen_out1 : (commitSeedgen s).out1 = s.out1 := rfl
@[simp] theorem commitSeedgen_out2 : (commitSeedgen s).out2 = s.out2 := rfl
@[simp] theorem commitSeedgen_out3 : (commitSeedgen s).out3 = s.out3 := rfl
@[simp] theorem commitSeedgen_ph : (commitSeedgen s).ph = s.ph := rfl
@[simp] theorem commitSeedgen_cur : (commitSeedgen s).cur = s.cur := rfl
@[simp] theorem commitSeedgen_idx : (commitSeedgen s).idx = s.idx := rfl
@[simp] theorem commitSeedgen_acc : (commitSeedgen s).acc = s.acc := rfl
@[simp] theorem commitSeedgen_ts : (commitSeedgen s).ts = s.ts := rfl
@[simp] theorem commitSeedgen_ib : (commitSeedgen s).ib = s.ib := rfl
@[simp] theorem commitSeedgen_timeIn : (commitSeedgen s).timeIn = s.timeIn := rfl
@[simp] theorem commitSeedgen_draws : (commitSeedgen s).draws = s.draws := rfl
@[simp] theorem commitSeedgen_agenda : (commitSeedgen s).agenda = s.agenda := rfl
@[simp] theorem commitSeedgen_reads : (commitSeedgen s).reads = s.reads := rfl
end commitSeedgen

end Sys2Proof.Machine
end

