-- ==== Sys2Proof/Laws/Step.lean ====
section
/-! SUPPORT. What a step can do, said once: one inversion lemma per operation that can answer in more than one way, and one
for the step. -/

namespace Sys2Proof.Machine

/-- The state a command's accept leaves (44_sequencer.md R186). -/
def taken : Instr → State → State
  | .mix, s => s.accept .mix
  | .expand, s => s.accept .expand
  | .hashmix, s => s.accept .hashmix
  | .hashmixA, s => s.accept .hashmixA
  | .seedgen, s => s.sampleTime.accept .seedgen

/-- What a command does: dropped with EBUSY while busy, accepted while idle. -/
theorem exec_eq (i : Instr) (s : State) :
    exec i s = .next (if s.status.busy then s.raiseEbusy else taken i s) := by cases i <;> rfl

theorem exec_busy {i : Instr} {s : State} (h : s.status.busy = true) : exec i s = .next s.raiseEbusy := by
  rw [exec_eq, if_pos h]

theorem exec_idle {i : Instr} {s : State} (h : s.status.busy = false) : exec i s = .next (taken i s) := by
  rw [exec_eq, if_neg (by simp [h])]

/-- What the sequencer's step can do: the block is busy and one of the rules 44 R187 to R196 applies. -/
inductive Sequenced (s : State) : State → Prop where
  | startMixer (c : Instr) (seed len : Word) (hp : s.ph = .start) (hc : s.command = some c)
      (ho : s.mixerOperands c = some (seed, len)) :
      Sequenced s { s with acc := initAcc seed len, idx := 0, ph := .words }
  | startOther (c : Instr) (hp : s.ph = .start) (hc : s.command = some c) (ho : s.mixerOperands c = none) :
      Sequenced s { s with ph := .retire }
  | word (c : Instr) (seed len : Word) (hp : s.ph = .words) (hc : s.command = some c)
      (ho : s.mixerOperands c = some (seed, len)) (hi : s.idx < fullWords len) : Sequenced s (wordStep c s)
  | wordsExit (c : Instr) (seed len : Word) (hp : s.ph = .words) (hc : s.command = some c)
      (ho : s.mixerOperands c = some (seed, len)) (hi : s.idx = fullWords len) : Sequenced s (wordsExitStep len s)
  | tail (c : Instr) (t : Word) (hp : s.ph = .tail) (hc : s.command = some c) (ht : s.tailWord c = some t) :
      Sequenced s { s with acc := tailRound s.acc t, ph := .fin1 }
  | fin1 (hp : s.ph = .fin1) : Sequenced s (finXor .fin2 s)
  | fin2 (hp : s.ph = .fin2) : Sequenced s (finMul Config.F1 .fin3 s)
  | fin3 (hp : s.ph = .fin3) : Sequenced s (finXor .fin4 s)
  | fin4 (hp : s.ph = .fin4) : Sequenced s (finMul Config.F2 .fin5 s)
  | fin5 (hp : s.ph = .fin5) : Sequenced s (finXor .retire s)
  | retire (c : Instr) (hp : s.ph = .retire) (hc : s.command = some c) : Sequenced s (retireStep c s)

theorem startStep_cases {c : Instr} {s : State} (hp : s.ph = .start) (hc : s.command = some c) :
    Sequenced s (startStep c s) := by
  rw [startStep]
  split
  · next seed len ho => exact .startMixer c seed len hp hc ho
  · next ho => exact .startOther c hp hc ho

theorem wordsStep_cases {c : Instr} {s t : State} (hp : s.ph = .words) (hc : s.command = some c)
    (h : wordsStep c s = some t) : Sequenced s t := by
  rw [wordsStep] at h
  split at h
  · next seed len ho =>
    split at h
    · next hi => cases h; exact .word c seed len hp hc ho hi
    · split at h
      · next hi => cases h; exact .wordsExit c seed len hp hc ho hi
      · cases h
  · cases h

theorem phaseStep_cases {s t : State} (h : phaseStep s = some t) : Sequenced s t := by
  rw [phaseStep] at h
  split at h
  · cases h
  · next hp =>
    obtain ⟨c, hc, rfl⟩ := Option.map_eq_some_iff.mp h
    exact startStep_cases hp hc
  · next hp =>
    obtain ⟨c, hc, h⟩ := Option.bind_eq_some_iff.mp h
    exact wordsStep_cases hp hc h
  · next hp =>
    obtain ⟨c, hc, h⟩ := Option.bind_eq_some_iff.mp h
    obtain ⟨w, ht, rfl⟩ := Option.map_eq_some_iff.mp h
    exact .tail c w hp hc ht
  · next hp => cases h; exact .fin1 hp
  · next hp => cases h; exact .fin2 hp
  · next hp => cases h; exact .fin3 hp
  · next hp => cases h; exact .fin4 hp
  · next hp => cases h; exact .fin5 hp
  · next hp =>
    obtain ⟨c, hc, rfl⟩ := Option.map_eq_some_iff.mp h
    exact .retire c hp hc

theorem sequencerStep_cases {s t : State} (h : sequencerStep s = some t) :
    s.status.busy = true ∧ Sequenced s t := by
  rw [sequencerStep] at h
  split at h
  · next hb => exact ⟨hb, phaseStep_cases h⟩
  · cases h

/-- Everything a move can do when it answers a next state; `s` is the state with the move taken off the agenda. -/
inductive Moved (s : State) : Move → State → Prop where
  | statusWrite (v : Word) : Moved s (.write 0x1 v) (s.clearFlags v)
  | busyWrite (idx : BitVec 4) (v : Word) (hi : idx ≠ 0x1) (hb : s.status.busy = true) :
      Moved s (.write idx v) s.raiseEbusy
  | accepted (v : Word) (i : Instr) (hb : s.status.busy = false) (hd : decode v = .ok i) :
      Moved s (.write 0x0 v) (taken i s)
  | illegal (v : Word) (e : Illegal) (hb : s.status.busy = false) (hd : decode v = .error e) :
      Moved s (.write 0x0 v) s.raiseEill
  | idleWrite (idx : BitVec 4) (v : Word) (h0 : idx ≠ 0x0) (h1 : idx ≠ 0x1) (hb : s.status.busy = false) :
      Moved s (.write idx v) (s.writeReg idx v)
  | read (idx : BitVec 4) : Moved s (.read idx) (s.hostRead idx)
  | waitBusy (hb : s.status.busy = true) :
      Moved s .wait { s.hostRead 0x1 with agenda := .sequencer :: .wait :: s.agenda }
  | waitIdle (hb : s.status.busy = false) : Moved s .wait (s.hostRead 0x1)
  | turn (t : State) (hb : s.status.busy = true) (h : Sequenced s t) : Moved s .sequencer t
  | quiet (hb : s.status.busy = false) : Moved s .sequencer s
  | stall : Moved s .stall s
  | reset : Moved s .reset s.rst
  | buffer (a : Word) (b : Byte) (hr : ¬(s.readsBuffer = true ∧ a < s.len ∧ b ≠ s.ibByte a)) :
      Moved s (.buffer a b) (s.storeBuffer a b)
  | clock (v : Word) : Moved s (.clock v) { s with timeIn := some v }

theorem hostWrite_cases {idx : BitVec 4} {v : Word} {s t : State} (h : hostWrite idx v s = .next t) :
    Moved s (.write idx v) t := by
  rw [hostWrite] at h
  split at h
  · next hi => cases h; rw [hi]; exact .statusWrite v
  · next hi =>
    split at h
    · next h0 =>
      rw [commandWrite] at h
      split at h
      · next hb => cases h; exact .busyWrite idx v hi hb
      · next hb =>
        have hb : s.status.busy = false := by simpa using hb
        split at h
        · next i hd => rw [exec_idle hb] at h; cases h; rw [h0]; exact .accepted v i hb hd
        · next e hd => cases h; rw [h0]; exact .illegal v e hb hd
    · next h0 =>
      split at h
      · next hb => cases h; exact .busyWrite idx v hi hb
      · next hb => cases h; exact .idleWrite idx v h0 hi (by simpa using hb)

theorem sequencerMove_cases {s t : State} (h : sequencerMove s = .next t) : Moved s .sequencer t := by
  rw [sequencerMove] at h
  split at h
  · next hb =>
    cases hu : sequencerStep s with
    | none => rw [hu] at h; cases h
    | some u => rw [hu] at h; cases h; exact .turn t hb (sequencerStep_cases hu).2
  · next hb => cases h; exact .quiet (by simpa using hb)

theorem perform_cases {m : Move} {s t : State} (h : perform m s = .next t) : Moved s m t := by
  cases m with
  | write idx v => exact hostWrite_cases h
  | read idx => cases h; exact .read idx
  | wait =>
    cases h
    rw [waitMove]
    split
    · next hb => exact .waitBusy hb
    · next hb => exact .waitIdle (by simpa using hb)
  | sequencer => exact sequencerMove_cases h
  | stall => cases h; exact .stall
  | reset => cases h; exact .reset
  | buffer a b =>
    rw [perform, hostBuffer] at h
    split at h
    · cases h
    · next hr => cases h; exact .buffer a b hr
  | clock v => cases h; exact .clock v

/-- Which move a step makes: the sequencer's turn when the agenda is used up, else the agenda's next. -/
theorem step_cases {s t : State} (h : step s = .next t) :
    ∃ m rest, (s.agenda = [] ∧ rest = [] ∧ m = Move.sequencer ∨ s.agenda = m :: rest) ∧
      Moved { s with agenda := rest } m t := by
  rw [step] at h
  split at h
  · next ha =>
    refine ⟨.sequencer, [], .inl ⟨ha, rfl, rfl⟩, ?_⟩
    have : { s with agenda := [] } = s := by rw [← ha]
    rw [this]
    exact sequencerMove_cases h
  · next m rest ha => exact ⟨m, rest, .inr ha, perform_cases h⟩

/-- The step of a state whose next move is known. -/
theorem step_cons {s : State} {m : Move} {rest : List Move} (h : s.agenda = m :: rest) :
    step s = perform m { s with agenda := rest } := by rw [step, h]

/-- The step of a state whose agenda is used up. -/
theorem step_nil {s : State} (h : s.agenda = []) : step s = sequencerMove s := by rw [step, h]

end Sys2Proof.Machine
end

