-- ==== Sys2Proof/Laws/Registers.lean ====
section
/-! SUPPORT. The register operations said once: the frame of the host's register write, the words and bytes of the output
registers, and what a command's rules leave in the result registers, field by field. -/

namespace Sys2Proof.Machine

/-- What a host's register write can do: one of SEED, LEN, DIGEST takes the value, or nothing happens. -/
theorem writeReg_cases (idx : BitVec 4) (v : Word) (s : State) :
    s.writeReg idx v = { s with seed := v } ∨ s.writeReg idx v = { s with len := v } ∨
    s.writeReg idx v = { s with digest := v } ∨ s.writeReg idx v = s := by
  unfold State.writeReg
  split_ifs
  · exact .inl rfl
  · exact .inr (.inl rfl)
  · exact .inr (.inr (.inl rfl))
  · exact .inr (.inr (.inr rfl))

/-- The word written to `OUT<i>` is there, and the other three are as before. -/
theorem outWord_setOut (s : State) {i j : Nat} (v : Word) (hi : i < 4) (hj : j < 4) :
    (s.setOut i v).outWord j = if j = i then v else s.outWord j := by
  have hi : i = 0 ∨ i = 1 ∨ i = 2 ∨ i = 3 := by omega
  have hj : j = 0 ∨ j = 1 ∨ j = 2 ∨ j = 3 := by omega
  rcases hi with rfl | rfl | rfl | rfl <;> rcases hj with rfl | rfl | rfl | rfl <;> rfl

/-- A byte put into a word is there, and the other seven are as before. -/
theorem byteOf_setByteOf (w : Word) {j k : Nat} (b : Byte) (hj : j < 8) (hk : k < 8) :
    byteOf (setByteOf w j b) k = if k = j then b else byteOf w k := by
  have low : ∀ i < 8, (255#64).getLsbD i = true := by decide
  have high : ∀ i, 8 ≤ i → i < 64 → (255#64).getLsbD i = false := by decide
  apply BitVec.eq_of_getLsbD_eq
  intro i hi
  split
  · next h =>
    subst h
    simp only [byteOf, setByteOf, BitVec.getLsbD_extractLsb', BitVec.getLsbD_or, BitVec.getLsbD_and,
      BitVec.getLsbD_not, BitVec.getLsbD_shiftLeft, BitVec.getLsbD_setWidth]
    have e : 8 * k + i - 8 * k = i := by omega
    simp [e, hi, low i hi, show 8 * k + i < 64 by omega, show ¬ 8 * k + i < 8 * k by omega, show i < 64 by omega]
  · next h =>
    simp only [byteOf, setByteOf, BitVec.getLsbD_extractLsb', BitVec.getLsbD_or, BitVec.getLsbD_and,
      BitVec.getLsbD_not, BitVec.getLsbD_shiftLeft, BitVec.getLsbD_setWidth]
    by_cases hlt : k < j
    · simp [hi, show 8 * k + i < 8 * j by omega, show 8 * k + i < 64 by omega]
    · have h8 : 8 ≤ 8 * k + i - 8 * j := by omega
      have h1 : b.getLsbD (8 * k + i - 8 * j) = false := BitVec.getLsbD_of_ge _ _ h8
      simp [hi, h1, high _ h8 (by omega), show 8 * k + i < 64 by omega, show ¬ 8 * k + i < 8 * j by omega]

/-- A byte stored in the output view is there, and the other 31 are as before (10_state.md R28). -/
theorem obByte_setObByte (s : State) {k k' : Nat} (b : Byte) (hk : k < 32) (hk' : k' < 32) :
    (s.setObByte k b).obByte k' = if k' = k then b else s.obByte k' := by
  rw [State.obByte, State.setObByte, outWord_setOut _ _ (by omega) (by omega)]
  by_cases h : k' / 8 = k / 8
  · rw [if_pos h, byteOf_setByteOf _ _ (by omega) (by omega)]
    by_cases h2 : k' % 8 = k % 8
    · rw [if_pos h2, if_pos (by omega)]
    · rw [if_neg h2, if_neg (by omega), State.obByte, h]
  · rw [if_neg h, if_neg fun e => h (by rw [e]), State.obByte]

/-- Two words with the same eight bytes are one. -/
theorem byteOf_ext {v w : Word} (h : ∀ j < 8, byteOf v j = byteOf w j) : v = w := by
  apply BitVec.eq_of_getLsbD_eq
  intro i hi
  have := congrArg (fun b : Byte => b.getLsbD (i % 8)) (h (i / 8) (by omega))
  simp only [byteOf, BitVec.getLsbD_extractLsb'] at this
  have e : 8 * (i / 8) + i % 8 = i := by omega
  simpa [e, show i % 8 < 8 by omega] using this

/-! The result registers after a command. The digest is a variable in the two general lemmas, so that no proof makes the
kernel compute `mix`. -/

theorem results_digest (s : State) (d : Word) :
    ({ s with digest := d } : State).results = (d, s.time, s.outlen, s.out0, s.out1, s.out2, s.out3) := rfl

theorem results_digest_time (s : State) (d t : Word) :
    ({ s with digest := d, time := t } : State).results = (d, t, s.outlen, s.out0, s.out1, s.out2, s.out3) := rfl

theorem results_holdingExpansion (d : Word) (s : State) :
    (s.holdingExpansion d).results =
      (s.digest, s.time, 32, expandWord d 0, expandWord d 1, expandWord d 2, expandWord d 3) := rfl

theorem results_after_mix (s : State) :
    (s.afterCommand .mix).results =
      (mix s.message s.seed, s.time, s.outlen, s.out0, s.out1, s.out2, s.out3) := results_digest s _

theorem results_after_expand (s : State) :
    (s.afterCommand .expand).results = (s.digest, s.time, 32, expandWord s.digest 0, expandWord s.digest 1,
      expandWord s.digest 2, expandWord s.digest 3) := results_holdingExpansion _ _

theorem results_after_hashmix (s : State) :
    (s.afterCommand .hashmix).results =
      (mix s.message s.seed, s.time, 32, expandWord (mix s.message s.seed) 0, expandWord (mix s.message s.seed) 1,
        expandWord (mix s.message s.seed) 2, expandWord (mix s.message s.seed) 3) :=
  results_holdingExpansion (mix s.message s.seed) { s with digest := mix s.message s.seed }

theorem results_after_hashmixA (s : State) :
    (s.afterCommand .hashmixA).results = (s.digest, s.time, 0, s.out0, s.out1, s.out2, s.out3) := rfl

theorem results_after_seedgen (s : State) :
    (s.afterCommand .seedgen).results =
      (seedgen s.sample, s.sample, s.outlen, s.out0, s.out1, s.out2, s.out3) :=
  results_digest_time s (seedgen s.sample) s.sample

/-- What RETIRE leaves in the result registers, by command (44_sequencer.md R196). -/
theorem results_retireStep (c : Instr) (s : State) :
    (retireStep c s).results =
      match c with
      | .mix => (s.acc, s.time, s.outlen, s.out0, s.out1, s.out2, s.out3)
      | .expand => (s.digest, s.time, 32, expandWord s.digest 0, expandWord s.digest 1, expandWord s.digest 2,
          expandWord s.digest 3)
      | .hashmix => (s.acc, s.time, 32, expandWord s.acc 0, expandWord s.acc 1, expandWord s.acc 2,
          expandWord s.acc 3)
      | .hashmixA => (s.digest, s.time, 0, s.out0, s.out1, s.out2, s.out3)
      | .seedgen => (s.acc, s.ts, s.outlen, s.out0, s.out1, s.out2, s.out3) := by cases c <;> rfl

end Sys2Proof.Machine
end

