-- ==== Sys2Proof/Laws/Runs.lean ====
section
/-! SUPPORT. Runs: how a run of the sequencer and a run of the machine are put together from single steps. -/

namespace Sys2Proof.Machine

theorem sequencerRun_succ (n : Nat) (s : State) :
    sequencerRun (n + 1) s = (sequencerStep s).bind (sequencerRun n) := rfl

/-- A run of m + n steps is a run of m, then one of n. -/
theorem sequencerRun_add (m n : Nat) (s : State) :
    sequencerRun (m + n) s = (sequencerRun m s).bind (sequencerRun n) := by
  induction m generalizing s with
  | zero => rw [Nat.zero_add, sequencerRun]; rfl
  | succ m ih =>
    rw [Nat.add_right_comm, sequencerRun_succ, sequencerRun_succ]
    cases sequencerStep s with
    | none => rfl
    | some t => exact ih t

theorem sequencerRun_one (s : State) : sequencerRun 1 s = sequencerStep s := by
  rw [sequencerRun_succ]
  cases sequencerStep s <;> rfl

/-- The sequencer's step while the block is busy is the step of its phase. -/
theorem sequencerStep_busy {s : State} (h : s.status.busy = true) : sequencerStep s = phaseStep s := by
  rw [sequencerStep, if_pos h]

/-- A run of the machine whose first step is known. -/
theorem core_run_succ (n : Nat) {s t : State} (h : step s = .next t) :
    Host.Core.run core (n + 1) s = Host.Core.run core n t := first core n h
where
  first (M : Host.Core) (n : Nat) {s t : M.State} (h : M.step s = .next t) : M.run (n + 1) s = M.run n t := by
    simp [Host.Core.run, h]

/-- A run of the machine that answers a next state took a first step. -/
theorem core_run_cases {n : Nat} {s t : State} (h : Host.Core.run core (n + 1) s = .next t) :
    ∃ u, step s = .next u ∧ Host.Core.run core n u = .next t := first core h
where
  first (M : Host.Core) {n : Nat} {s t : M.State} (h : M.run (n + 1) s = .next t) :
      ∃ u, M.step s = .next u ∧ M.run n u = .next t := by
    rw [Host.Core.run] at h
    split at h
    · next u hu => exact ⟨u, hu, h⟩
    · cases h
    · cases h

/-- A run of the machine in two parts. -/
theorem core_run_add (m n : Nat) {s t : State} (h : Host.Core.run core m s = .next t) :
    Host.Core.run core (m + n) s = Host.Core.run core n t := by
  induction m generalizing s with
  | zero => cases h; rw [Nat.zero_add]
  | succ m ih =>
    obtain ⟨u, hu, h⟩ := core_run_cases h
    rw [Nat.add_right_comm, core_run_succ _ hu]
    exact ih h

end Sys2Proof.Machine
end

