-- ==== Sys2Proof/Laws/Congr.lean ====
section
/-! SUPPORT. What a command's operands depend on: states that agree in `CUR`, SEED, LEN, `TS` and the buffer have the same
operands and the same partial results; and only the buffer's bytes below LEN matter. -/

namespace Sys2Proof.Machine

/-- Two states with the same operands for the running command. -/
structure SameOperands (s t : State) : Prop where
  cur : t.cur = s.cur
  seed : t.seed = s.seed
  len : t.len = s.len
  ts : t.ts = s.ts
  ib : t.ib = s.ib

theorem SameOperands.command {s t : State} (h : SameOperands s t) : t.command = s.command := command_congr h.cur

theorem SameOperands.mixerOperands {s t : State} (h : SameOperands s t) (c : Instr) :
    t.mixerOperands c = s.mixerOperands c := by
  cases c <;> simp [State.mixerOperands, h.seed, h.len]

theorem SameOperands.memRead {s t : State} (h : SameOperands s t) (a : Word) (n : Nat) :
    t.memRead a n = s.memRead a n := memRead_congr fun j _ => by rw [State.ibByte, h.ib, State.ibByte]

theorem SameOperands.fullWord {s t : State} (h : SameOperands s t) (c : Instr) (k : Word) :
    t.fullWord c k = s.fullWord c k := by rw [State.fullWord, State.fullWord, h.ts, h.memRead]

theorem SameOperands.tailWord {s t : State} (h : SameOperands s t) (c : Instr) : t.tailWord c = s.tailWord c := by
  rw [State.tailWord, State.tailWord, h.len, h.memRead]

theorem SameOperands.accWords {s t : State} (h : SameOperands s t) (c : Instr) (seed len : Word) :
    t.accWords c seed len = s.accWords c seed len := absorb_congr fun _ _ => h.fullWord _ _

theorem SameOperands.accTail {s t : State} (h : SameOperands s t) (c : Instr) (seed len : Word) :
    t.accTail c seed len = s.accTail c seed len := by
  rw [State.accTail, State.accTail, h.tailWord, h.accWords]

/-- Full word k below q ends at or below LEN (20_memory.md R52). -/
theorem fullWord_end {k len : Word} (h : k < fullWords len) : (8 * k).toNat + 8 ≤ len.toNat := by
  rw [BitVec.lt_def, fullWords_toNat] at h
  have := len.isLt
  rw [BitVec.toNat_mul, show BitVec.toNat (8 : Word) * k.toNat = 8 * k.toNat from rfl, Nat.mod_eq_of_lt (by omega)]
  omega

/-- The tail read ends at LEN (20_memory.md R53). -/
theorem tailWord_end (len : Word) : (8 * fullWords len).toNat + tailBytes len ≤ len.toNat := by
  have := len.isLt
  rw [BitVec.toNat_mul, tailBytes_eq, fullWords_toNat,
    show BitVec.toNat (8 : Word) * (len.toNat / 8) = 8 * (len.toNat / 8) from rfl, Nat.mod_eq_of_lt (by omega)]
  omega

/-- A read that ends at or below LEN depends on the bytes below LEN alone. -/
theorem memRead_below {s t : State} {a : Word} {n : Nat} (h : ∀ x, x < s.len → t.ibByte x = s.ibByte x)
    (ha : a.toNat + n ≤ s.len.toNat) : t.memRead a n = s.memRead a n := by
  refine memRead_congr fun j hj => h _ ?_
  have := s.len.isLt
  rw [BitVec.lt_def, BitVec.toNat_add, BitVec.toNat_ofNat, Nat.mod_eq_of_lt (by omega : j < 2 ^ 64),
    Nat.mod_eq_of_lt (by omega)]
  omega

/-- The tail word depends on the bytes below LEN alone. -/
theorem tailWord_below {s t : State} {c : Instr} (hl : t.len = s.len)
    (h : ∀ x, x < s.len → t.ibByte x = s.ibByte x) : t.tailWord c = s.tailWord c := by
  rw [State.tailWord, State.tailWord, hl, memRead_below h (tailWord_end _)]

/-- The message is the bytes below LEN. -/
theorem message_below {s t : State} (hl : t.len = s.len) (h : ∀ x, x < s.len → t.ibByte x = s.ibByte x) :
    t.message = s.message := by
  rw [State.message, State.message, hl]
  refine ibBytes_congr fun j hj => h _ ?_
  have := s.len.isLt
  rw [BitVec.lt_def, show (0 : Word) + BitVec.ofNat 64 j = BitVec.ofNat 64 j from BitVec.zero_add _, BitVec.toNat_ofNat,
    Nat.mod_eq_of_lt (by omega)]
  exact hj

end Sys2Proof.Machine
end

