-- ==== Sys2Proof/Laws/PerInstr.lean ====
section
/-! SUPPORT. One lemma per command: its word keeps the reserved bits zero, passes every check, and the decoder reads it
back (30_encoding.md R81, R82, R83). -/

/-- The command's write data is well formed, fits the eight bits of the table, and decodes to the command. -/
def Sys2Proof.Laws.CommandWord.Statement : Sys2Proof.Instr → Prop := fun i =>
  i.wellFormed = true ∧ (Sys2Proof.encodeWrite i).toNat < 2 ^ 8 ∧
    Sys2Proof.decode (Sys2Proof.encodeWrite i) = .ok i ∧
    Sys2Proof.decodeTableWord 8 (Sys2Proof.encode i).toNat = some i

theorem Sys2Proof.Laws.CommandWord.mix : Sys2Proof.Laws.CommandWord.Statement .mix := by
  unfold Sys2Proof.Laws.CommandWord.Statement; decide

theorem Sys2Proof.Laws.CommandWord.expand : Sys2Proof.Laws.CommandWord.Statement .expand := by
  unfold Sys2Proof.Laws.CommandWord.Statement; decide

theorem Sys2Proof.Laws.CommandWord.hashmix : Sys2Proof.Laws.CommandWord.Statement .hashmix := by
  unfold Sys2Proof.Laws.CommandWord.Statement; decide

theorem Sys2Proof.Laws.CommandWord.hashmixA : Sys2Proof.Laws.CommandWord.Statement .hashmixA := by
  unfold Sys2Proof.Laws.CommandWord.Statement; decide

theorem Sys2Proof.Laws.CommandWord.seedgen : Sys2Proof.Laws.CommandWord.Statement .seedgen := by
  unfold Sys2Proof.Laws.CommandWord.Statement; decide
end

