-- ==== Sys2Proof/Tests/Slice0.lean ====
section
/-! SUPPORT. The model's own tests: ill-formed words for each check, words written out bit by bit, one-step tests with the
expected values of spec/95_test_vectors.md, and for every statement with hypotheses a witness that meets them, at the ends
of their ranges. -/

namespace Sys2Proof.Tests

open Sys2Proof.Machine

/-! ### Small states -/

/-- An idle block with the hidden registers 0. -/
def idle : State := { State.reset with acc := 0, idx := 0, cur := 0, ts := 0 }

/-- A block that runs command i, in phase p. -/
def busyAt (i : Instr) (p : Phase) : State :=
  { idle with status := ⟨true, false, false⟩, cur := encode i, ph := p }

/-- The same state with moves to come. -/
def facing (moves : List Move) (s : State) : State := { s with agenda := moves }

/-- A buffer with the bytes `00 01 02 ...` from address 0 on, n of them. -/
def counting (n : Nat) : List Host.Cell := ((List.range n).map fun a => (a, BitVec.ofNat 8 a)).drop 1

/-! ### WellFormed: one ill-formed word per check, and the legal words -/

theorem test_wellFormed_refuses_upper : (fieldsOf 0x0000000000000101#64).upperOk = false := by decide
theorem test_wellFormed_refuses_upper_top : (fieldsOf 0x8000000000000001#64).wellFormed = false := by decide
theorem test_wellFormed_refuses_zero_field : (fieldsOf 0x11#64).zeroOk = false := by decide
theorem test_wellFormed_refuses_operation : (fieldsOf 0x00#64).opOk = false ∧ (fieldsOf 0x05#64).opOk = false := by decide
theorem test_wellFormed_refuses_absent_flag : (fieldsOf 0x09#64).absOk = false ∧ (fieldsOf 0x0c#64).absOk = false := by decide
theorem test_wellFormed_accepts_commands :
    ∀ i ∈ [Instr.mix, .expand, .hashmix, .hashmixA, .seedgen], i.wellFormed = true := by decide

/-! ### Decode: `zero` 0000, `abs`, `op` written out (30_encoding.md R81, R83) -/

theorem test_decode_mix : decode (0#56 ++ 0b0000#4 ++ 0b0#1 ++ 0b001#3) = .ok .mix := by decide
theorem test_decode_expand : decode (0#56 ++ 0b0000#4 ++ 0b0#1 ++ 0b010#3) = .ok .expand := by decide
theorem test_decode_hashmix : decode (0#56 ++ 0b0000#4 ++ 0b0#1 ++ 0b011#3) = .ok .hashmix := by decide
theorem test_decode_hashmixA : decode (0#56 ++ 0b0000#4 ++ 0b1#1 ++ 0b011#3) = .ok .hashmixA := by decide
theorem test_decode_seedgen : decode (0#56 ++ 0b0000#4 ++ 0b0#1 ++ 0b100#3) = .ok .seedgen := by decide
theorem test_decodeTableWord : decodeTableWord 8 0x0b = some .hashmixA ∧ decodeTableWord 8 0x0c = none := by decide

/-! ### Primitives (95_test_vectors.md section 2.1) -/

theorem test_rotl64 : rotl64 0x0123456789abcdef#64 27 = 0x3c4d5e6f78091a2b#64 ∧
    rotl64 0x0000002000000000#64 27 = 1 ∧ rotl64 0x0123456789abcdef#64 31 = 0xc4d5e6f78091a2b3#64 := by decide
theorem test_shr64_is_logical : shr64 0x8000000000000000#64 33 = 0x0000000040000000#64 := by decide
theorem test_mul64_discards : mul64 0xffffffffffffffff#64 Config.M1 = 0xc38653b6d45849ad#64 := by decide
theorem test_add64_discards : add64 0xffffffffffffffff#64 Config.G = 0x9e3779b97f4a7c14#64 := by decide
theorem test_xorshift33 : xorshift33 0x0123456789abcdef#64 = 0x01234567893a6f5c#64 := by decide

/-! ### Pure functions (95_test_vectors.md sections 2.2 to 2.5) -/

/-- V-M3: "abc", a tail of 3. -/
theorem test_mix_vector : mix [0x61, 0x62, 0x63] 0x1234567890abcdef#64 = 0x4a6086edbadde444#64 := by decide

/-- The byte view of `expand(0x3a7a1bc78d2cd208)`, its second word's bytes. -/
theorem test_expand_vector : ((expand 0x3a7a1bc78d2cd208#64).drop 8).take 8 =
    [0x1d, 0x4e, 0x77, 0x0c, 0x81, 0x95, 0xb1, 0xd8] := by decide

theorem test_seedgen_vector : seedgen 0x000000006553f100#64 = 0x385906e0c124fefd#64 := by decide

/-! ### The commands, one step each (95_test_vectors.md sections 2.2, 2.4, 2.5) -/

/-- V-M9, WORD 0: the first word of nine counting bytes, little-endian. -/
theorem test_mix_word : (sequencerStep { busyAt .mix .words with
    ib := counting 9, len := 9, acc := 0x8ff34785799e5cbd#64 }).map State.acc = some 0xc968d523dd325c7c#64 := by decide

/-- V-M15, TAIL: seven bytes from address 8. -/
theorem test_mix_tail : (sequencerStep { busyAt .mix .tail with
    ib := counting 15, len := 15, acc := 0x47bd05f814a0f352#64 }).map State.acc = some 0xa1be0b40f57b5942#64 := by decide

/-- EXPAND commits the words of DIGEST, not of ACC. -/
theorem test_expand_commit : (sequencerStep { busyAt .expand .retire with
    digest := 0x4a6086edbadde444#64, acc := 5 }).map (fun t => (t.out0, t.out3, t.outlen)) =
    some (0x4a6086edbadde444#64, 0x2506f41a38bd5883#64, 32#6) := by decide

/-- EXPAND runs no Mixer: START leads to RETIRE. -/
theorem test_expand_start : (sequencerStep (busyAt .expand .start)).map State.ph = some .retire := by decide

/-- HASHMIX commits the new digest and its expansion. -/
theorem test_hashmix_commit : (sequencerStep { busyAt .hashmix .retire with
    digest := 1, acc := 0x3a7a1bc78d2cd208#64 }).map (fun t => (t.digest, t.out1, t.outlen)) =
    some (0x3a7a1bc78d2cd208#64, 0xd8b195810c774e1d#64, 32#6) := by decide

/-- V-M3, START: the length term of three bytes. -/
theorem test_hashmix_start : (sequencerStep { busyAt .hashmix .start with
    seed := 0x1234567890abcdef#64, len := 3 }).map State.acc = some 0xc8923b54ed74b9d0#64 := by decide

/-- HASHMIX.A commits OUTLEN 0 and leaves OUT and DIGEST. -/
theorem test_hashmixA_commit : (sequencerStep { busyAt .hashmixA .retire with
    outlen := 32, out0 := 7, digest := 9 }).map (fun t => (t.outlen, t.out0, t.digest)) = some (0#6, 7#64, 9#64) := by decide

/-- SEEDGEN samples the announced time at accept. -/
theorem test_seedgen_accept :
    step (facing [.write 0x0 0x04#64] { idle with timeIn := some 0x6553f100#64 }) =
      .next { busyAt .seedgen .start with ts := 0x6553f100#64, draws := 2 } := rfl

/-- SEEDGEN, WORD 0 of the sample 1. -/
theorem test_seedgen_word : (sequencerStep { busyAt .seedgen .words with
    ts := 1, acc := 0xe38f9bb36af82d47#64 }).map State.acc = some 0x6ffa0c31b22c99a7#64 := by decide

/-! ### Witnesses: encoding and steps -/

theorem witness_IllegalWordsByClass :
    (0x0000000000000101#64).extractLsb' 8 56 ≠ 0 ∧ (0x8000000000000000#64).extractLsb' 8 56 ≠ 0 ∧
    ((0x11#64).extractLsb' 8 56 = 0 ∧ (0x11#64).extractLsb' 4 4 ≠ 0) ∧
    ((0x80#64).extractLsb' 8 56 = 0 ∧ (0x80#64).extractLsb' 4 4 ≠ 0) ∧
    decode 0x08#64 = .error .noOperation ∧ decode 0x0f#64 = .error .reservedOperation ∧
    decode 0x0c#64 = .error .absentFlag := by decide

theorem witness_StepRunsDecodedCommand :
    (facing [.write 0x0 0x0b#64, .wait] idle).agenda = .write 0x0 0x0b#64 :: [.wait] ∧
    decode 0x0b#64 = .ok .hashmixA := by decide

theorem witness_PlacedWordRunsNext : decodeTableWord 8 0x04 = some .seedgen ∧ decodeTableWord 8 0x01 = some .mix := by decide

/-! ### Witnesses: the commands -/

theorem witness_MixAcceptsAndCommitsDigest : { idle with len := 9, seed := 3 }.status.busy = false := by decide
theorem witness_ExpandAcceptsAndCommitsWords : { idle with digest := 1 }.status.busy = false := by decide
theorem witness_HashmixAcceptsAndCommitsExpansion : { idle with len := 0 }.status.busy = false := by decide
theorem witness_AbsentHashmixAcceptsAndCommitsNoBytes : { idle with outlen := 32 }.status.busy = false := by decide
theorem witness_SeedgenAcceptsAndCommitsSeed :
    { idle with timeIn := some 7 }.status.busy = false ∧ { idle with timeIn := some 7 }.timeIn = some 7 := by decide
theorem witness_AnnouncedTimeIsTheNextSample :
    (facing [.clock 7] idle).agenda = .clock 7 :: [] ∧
    (facing [.clock 7, .write 0x0 0x04#64] idle).agenda = .clock 7 :: .write 0x0 (encodeWrite .seedgen) :: [] ∧
    (facing [.clock 7, .write 0x0 0x04#64] idle).status.busy = false := by decide
theorem witness_IdleCommandIsAcceptedAtOnce : { idle with len := 8 }.status.busy = false := by decide
theorem witness_BusyCommandIsDropped : (busyAt .mix .words).status.busy = true := by decide
theorem witness_CommandWriteFrame : (∃ t, exec .seedgen idle = .next t) ∧ (∃ t, exec .mix (busyAt .mix .words) = .next t) ∧
    Instr.mix ≠ .seedgen := ⟨⟨_, rfl⟩, ⟨_, rfl⟩, by decide⟩

/-! ### Witnesses: flags and host access -/

/-- The words 0 and 2^8 are no command's word. -/
theorem illegal_words (i : Instr) : (0x00#64 : Word) ≠ encodeWrite i ∧ (0x100#64 : Word) ≠ encodeWrite i := by
  cases i <;> decide

/-- A block with both flags set. -/
def flagged : State := { idle with status := ⟨false, true, true⟩ }

theorem witness_IllegalWordSetsEill_sets :
    (facing [.write 0x0 0x100#64] idle).agenda = .write 0x0 0x100#64 :: [] ∧
    (facing [.write 0x0 0x100#64] idle).status.busy = false ∧ ∀ i, (0x100#64 : Word) ≠ encodeWrite i :=
  ⟨rfl, rfl, fun i => (illegal_words i).2⟩

theorem witness_IllegalWordSetsEill_clears :
    (∃ t, step (facing [.write 0x1 2] flagged) = .next t ∧ (facing [.write 0x1 2] flagged).status.eill = true ∧
      t.status.eill = false) ∧
    ∃ t, step (facing [.reset] flagged) = .next t ∧ (facing [.reset] flagged).status.eill = true ∧ t.status.eill = false :=
  ⟨⟨_, rfl, rfl, rfl⟩, _, rfl, rfl, rfl⟩

theorem witness_WriteWhileBusySetsEbusy_sets :
    (facing [.write 0xF 0] (busyAt .mix .words)).agenda = .write 0xF 0 :: [] ∧
    (facing [.write 0xF 0] (busyAt .mix .words)).status.busy = true ∧ (0xF#4 : BitVec 4) ≠ 0x1 ∧ (0x0#4 : BitVec 4) ≠ 0x1 := by
  decide

theorem witness_WriteWhileBusySetsEbusy_clears :
    (∃ t, step (facing [.write 0x1 4] flagged) = .next t ∧ (facing [.write 0x1 4] flagged).status.ebusy = true ∧
      t.status.ebusy = false) ∧
    ∃ t, step (facing [.reset] flagged) = .next t ∧ (facing [.reset] flagged).status.ebusy = true ∧
      t.status.ebusy = false := ⟨⟨_, rfl, rfl, rfl⟩, _, rfl, rfl, rfl⟩

theorem witness_NothingElseRaisesAFlag :
    (∃ t, step (facing [.write 0x0 0] idle) = .next t ∧ (facing [.write 0x0 0] idle).status.eill = false ∧
      t.status.eill = true) ∧
    ∃ t, step (facing [.write 0x2 0] (busyAt .mix .words)) = .next t ∧
      (facing [.write 0x2 0] (busyAt .mix .words)).status.ebusy = false ∧ t.status.ebusy = true :=
  ⟨⟨_, rfl, rfl, rfl⟩, _, rfl, rfl, rfl⟩

theorem witness_StatusWriteClearsFlags :
    (facing [.write 0x1 6] flagged).agenda = .write 0x1 6 :: [] ∧ (6#64).getLsbD 1 = true ∧ (6#64).getLsbD 2 = true := by
  decide

theorem witness_IdleWritesByIndex :
    (facing [.write 0x0 0x01#64] idle).status.busy = false ∧ (0x01#64 : Word) = encodeWrite .mix ∧
    (∀ i, (0x00#64 : Word) ≠ encodeWrite i) ∧ ((0x5#4 : BitVec 4) ≤ 0x5 ∧ (0x5#4 : BitVec 4) ≤ 0xF) ∧
    ∀ idx ∈ [0x0#4, 0x1#4, 0x2#4, 0x3#4, 0x4#4, 0x5#4, 0xF#4],
      (facing [.write idx 9] idle).agenda = .write idx 9 :: [] :=
  ⟨rfl, rfl, fun i => (illegal_words i).1, by decide, by decide⟩

theorem witness_HostReadGivesTheRegister :
    ((0xC#4 : BitVec 4) ≤ 0xC ∧ (0xC#4 : BitVec 4) ≤ 0xF ∧ ¬(0xC#4 : BitVec 4) ≤ 0xB) ∧
    ∀ idx ∈ [0x0#4, 0x1#4, 0x2#4, 0x3#4, 0x4#4, 0x5#4, 0x6#4, 0x7#4, 0x8#4, 0x9#4, 0xA#4, 0xB#4, 0xC#4, 0xF#4],
      (facing [.read idx] idle).agenda = .read idx :: [] := by decide

theorem witness_ReservedIndicesHoldNothing :
    ((0x7#4 : BitVec 4) = 0x7 ∨ (0xC#4 : BitVec 4) ≤ 0x7) ∧ ((0xC#4 : BitVec 4) = 0x7 ∨ (0xC#4 : BitVec 4) ≤ 0xC) ∧
    (facing [.write 0x7 1] idle).agenda = .write 0x7 1 :: [] ∧ (facing [.write 0x7 1] idle).status.busy = false ∧
    (facing [.write 0xF 1] (busyAt .mix .words)).agenda = .write 0xF 1 :: [] ∧
    (facing [.write 0xF 1] (busyAt .mix .words)).status.busy = true := by decide

theorem witness_RegistersHoldStillWhileBusy :
    ∃ t, (busyAt .mix .fin1).status.busy = true ∧ step (busyAt .mix .fin1) = .next t ∧ t.status.busy = true :=
  ⟨_, rfl, rfl, rfl⟩

theorem witness_OnlyRetireOrResetEndsACommand :
    (∃ t, (busyAt .mix .retire).status.busy = true ∧ step (busyAt .mix .retire) = .next t ∧ t.status.busy = false) ∧
    ∃ t, (facing [.reset] (busyAt .mix .words)).status.busy = true ∧
      step (facing [.reset] (busyAt .mix .words)) = .next t ∧ t.status.busy = false :=
  ⟨⟨_, rfl, rfl, rfl⟩, _, rfl, rfl, rfl⟩

/-! ### Witnesses: the sequencer's steps -/

theorem witness_StartStepByCommand : ∀ i ∈ [Instr.mix, .expand, .hashmix, .hashmixA, .seedgen],
    (busyAt i .start).status.busy = true ∧ (busyAt i .start).ph = .start ∧ (busyAt i .start).command = some i := by decide

theorem witness_WordLoopRunsOncePerWord :
    ((busyAt .seedgen .words).status.busy = true ∧ (busyAt .seedgen .words).ph = .words ∧
      (busyAt .seedgen .words).command = some .seedgen ∧
      (busyAt .seedgen .words).mixerOperands .seedgen = some (Config.KSEED, 8)) ∧
    ((busyAt .seedgen .words).idx < (8#64) >>> 3 ∧ (busyAt .seedgen .words).idx = 0) ∧
    { busyAt .mix .words with idx := 1, len := 15 }.idx = (15#64) >>> 3 := by decide

/-- A MIX of `len` bytes about to take TAIL. -/
def mixTail (len : Word) : State := { busyAt .mix .tail with len := len }

theorem mixTail_shape (len : Word) :
    (mixTail len).status.busy = true ∧ (mixTail len).ph = .tail ∧ (mixTail len).command = some .mix :=
  ⟨rfl, rfl, command_of_cur rfl⟩

theorem witness_TailStepAbsorbsTheTail :
    ((mixTail 1).status.busy = true ∧ (mixTail 1).ph = .tail ∧ (mixTail 1).command = some .mix) ∧
    (1 ≤ tailBytes 1 ∧ tailBytes 1 ≤ 7 ∧ 1 ≤ tailBytes 15 ∧ tailBytes 15 ≤ 7) ∧
    (mixTail 1).coherent = true ∧ (mixTail 15).coherent = true :=
  ⟨mixTail_shape 1, by decide, by decide, by decide⟩

/-- A MIX of the empty message with seed 1 about to take FIN5 (vector V-M0a). -/
def mixBeforeFin5 : State := { busyAt .mix .fin5 with seed := 1, acc := 0xb456bcfc6ee99552#64 }

/-- A SEEDGEN of the sample 1 about to take FIN5 (95_test_vectors.md section 2.5). -/
def seedgenBeforeFin5 : State := { busyAt .seedgen .fin5 with ts := 1, acc := 0x9272c9d2f3d11617#64 }

theorem mixBeforeFin5_inv : mixBeforeFin5.Inv := by
  refine ⟨by decide, fun c seed len _ hc ho => ?_⟩
  have e : mixBeforeFin5.command = some .mix := by decide
  rw [e] at hc
  cases hc
  cases ho
  decide

theorem seedgenBeforeFin5_inv : seedgenBeforeFin5.Inv := by
  refine ⟨by decide, fun c seed len _ hc ho => ?_⟩
  have e : seedgenBeforeFin5.command = some .seedgen := by decide
  rw [e] at hc
  cases hc
  cases ho
  decide

theorem witness_FinaliserSteps :
    (∀ p ∈ [Phase.fin1, .fin2, .fin3, .fin4, .fin5], (busyAt .mix p).status.busy = true ∧ (busyAt .mix p).ph = p) ∧
    (mixBeforeFin5.ph = .fin5 ∧ mixBeforeFin5.Inv ∧ mixBeforeFin5.command = some .mix) ∧
    (seedgenBeforeFin5.ph = .fin5 ∧ seedgenBeforeFin5.Inv ∧ seedgenBeforeFin5.command = some .seedgen) :=
  ⟨by decide, ⟨rfl, mixBeforeFin5_inv, by decide⟩, rfl, seedgenBeforeFin5_inv, by decide⟩

theorem witness_RetireCommitsByCommand : ∀ i ∈ [Instr.mix, .expand, .hashmix, .hashmixA, .seedgen],
    (busyAt i .retire).status.busy = true ∧ (busyAt i .retire).ph = .retire ∧ (busyAt i .retire).command = some i := by
  decide

theorem witness_SequencerStepFrame : ∃ t, sequencerStep (busyAt .mix .fin2) = some t ∧ (busyAt .mix .fin2).ph ≠ .retire :=
  ⟨_, rfl, by decide⟩

theorem witness_DataNeverSelectsAPath :
    { busyAt .mix .words with acc := 1, seed := 2, ib := [(0, 3#8)] }.status.busy = (busyAt .mix .words).status.busy ∧
    { busyAt .mix .words with acc := 1, seed := 2, ib := [(0, 3#8)] }.ph = (busyAt .mix .words).ph ∧
    { busyAt .mix .words with acc := 1, seed := 2, ib := [(0, 3#8)] }.cur = (busyAt .mix .words).cur ∧
    { busyAt .mix .words with acc := 1, seed := 2, ib := [(0, 3#8)] }.len = (busyAt .mix .words).len ∧
    { busyAt .mix .words with acc := 1, seed := 2, ib := [(0, 3#8)] }.idx = (busyAt .mix .words).idx := by decide

/-- Buffers that agree at address 0, below LEN 1, and differ at address 1. -/
theorem witness_NothingReadAtOrBeyondLength : ∀ a : Word, a < { busyAt .mix .tail with ib := [(0, 5#8)], len := 1 }.len →
    Memory.read [(0, 5#8), (1, 9#8)] a.toNat = { busyAt .mix .tail with ib := [(0, 5#8)], len := 1 }.ibByte a := by
  intro a h
  have : a = 0 := BitVec.eq_of_toNat_eq (by
    have h : a.toNat < 1 := h
    show a.toNat = 0
    omega)
  rw [this]
  decide

/-! ### Witnesses: whole runs -/

/-- A running MIX of the one byte 05, seed 0, before TAIL (its accumulator is the length term, vector V-M1). -/
def mixOfOneByte : State := { busyAt .mix .tail with ib := [(0, 5#8)], len := 1, acc := 0x9e3779b97f4a7c15#64 }

/-- The invariant does not read the agenda. -/
theorem facing_inv {s : State} (moves : List Move) (h : s.Inv) : (facing moves s).Inv := h

theorem mixOfOneByte_inv (moves : List Move) : (facing moves mixOfOneByte).Inv := by
  refine facing_inv moves ⟨by decide, fun c seed len _ hc ho => ?_⟩
  have e : mixOfOneByte.command = some .mix := by decide
  rw [e] at hc
  cases hc
  cases ho
  decide

theorem idle_inv (s : State) (h : s.coherent = true) (hb : s.status.busy = false) : s.Inv :=
  ⟨h, fun _ _ _ e => by rw [hb] at e; cases e⟩

theorem witness_ReferenceStepCounts : { idle with len := 9 }.status.busy = false ∧ { idle with len := 9 }.agenda = [] := by
  decide

/-- No reset to come; stores to come at LEN and above, and one of the byte that is there. -/
theorem witness_EveryBusyBlockRetires :
    (facing [.buffer 0 5, .buffer 1 7, .wait] mixOfOneByte).Inv ∧
    (facing [.buffer 0 5, .buffer 1 7, .wait] mixOfOneByte).status.busy = true ∧
    Move.reset ∉ (facing [.buffer 0 5, .buffer 1 7, .wait] mixOfOneByte).agenda ∧
    (facing [.buffer 0 5, .buffer 1 7, .wait] mixOfOneByte).storesHarmless := by
  refine ⟨mixOfOneByte_inv _, rfl, by decide, fun _ a b h => ?_⟩
  have h : a = 0 ∧ b = 5 ∨ a = 1 ∧ b = 7 := by simpa [facing] using h
  rcases h with ⟨rfl, rfl⟩ | ⟨rfl, rfl⟩
  · exact .inr (by decide)
  · exact .inl (by decide)

/-- With a reset to come. -/
theorem witness_EveryBusyBlockRetires_reset :
    (facing [.reset] mixOfOneByte).Inv ∧ (facing [.reset] mixOfOneByte).status.busy = true ∧
    (facing [.reset] mixOfOneByte).storesHarmless :=
  ⟨mixOfOneByte_inv _, rfl, fun _ a b h => by simp [facing] at h⟩

/-- An EXPAND with a read and a dropped write before its two steps: four steps to the idle block. -/
theorem witness_InterleavedCommandCommitsItsFunction :
    (facing [.read 0x4, .write 0x2 5] idle).Inv ∧ (facing [.read 0x4, .write 0x2 5] idle).status.busy = false ∧
    Move.reset ∉ (facing [.read 0x4, .write 0x2 5] idle).agenda ∧
    ∃ s1 t, exec .expand (facing [.read 0x4, .write 0x2 5] idle) = .next s1 ∧
      Host.Core.run core 4 s1 = .next t ∧
      (∀ m < 4, ∀ u, Host.Core.run core m s1 = .next u → u.status.busy = true) ∧ t.status.busy = false := by
  refine ⟨idle_inv _ (by decide) (by decide), by decide, by decide, _, _, rfl, rfl, fun m hm u h => ?_, rfl⟩
  have : m = 0 ∨ m = 1 ∨ m = 2 ∨ m = 3 := by omega
  rcases this with rfl | rfl | rfl | rfl <;> (cases h; rfl)

theorem witness_StepKeepsInvariant : mixBeforeFin5.Inv ∧ ∃ t, step mixBeforeFin5 = .next t := ⟨mixBeforeFin5_inv, _, rfl⟩

theorem witness_LegalStatesNeverFault : { busyAt .mix .words with idx := 1, len := 8 }.coherent = true := by decide

theorem witness_BufferChangeWhileHashingIsRefused :
    (facing [.buffer 0 6] mixOfOneByte).agenda = .buffer 0 6 :: [] ∧
    (mixOfOneByte.status.busy = true ∧ mixOfOneByte.command = some .mix ∧ 0 < mixOfOneByte.len ∧
      (6 : Byte) ≠ mixOfOneByte.ibByte 0) ∧
    ¬(1 : Word) < mixOfOneByte.len ∧ ¬(5 : Byte) ≠ mixOfOneByte.ibByte 0 ∧
    Memory.wf (facing [.buffer 1 6] mixOfOneByte).ib = true ∧ (0 : Word) ≠ 1 ∧
    ∃ r, step (facing [.buffer 0 6] mixOfOneByte) = .refused r :=
  ⟨by decide, by decide, by decide, by decide, by decide, by decide, _, rfl⟩

theorem witness_DeadHiddenRegistersNeverMatter :
    idle.liveView = (idle.withHidden 5 6 7 8).liveView ∧ idle ≠ idle.withHidden 5 6 7 8 ∧ ∃ t, step idle = .next t :=
  ⟨by decide, by decide, _, rfl⟩

/-- The empty message with seed 1: MIX, a change of SEED, EXPAND; and HASHMIX. -/
theorem witness_MixThenExpandEqualsHashmix : ∃ s m e h s1 m' e1 h1 : State, s.status.busy = false ∧
    exec .mix s = .next s1 ∧ sequencerRun (referenceSteps s .mix) s1 = some m ∧
    m'.status.busy = false ∧ m'.digest = m.digest ∧
    exec .expand m' = .next e1 ∧ sequencerRun (referenceSteps m' .expand) e1 = some e ∧
    exec .hashmix s = .next h1 ∧ sequencerRun (referenceSteps s .hashmix) h1 = some h := by
  have run : ∀ {o : Option State}, o.isSome = true → ∃ t, o = some t := fun h => Option.isSome_iff_exists.mp h
  have hm : (sequencerRun 8 (({ idle with seed := 1 } : State).accept .mix)).map State.digest =
      some 0xb456bcfc34c2cb2c#64 := by decide
  have hh : (sequencerRun 8 (({ idle with seed := 1 } : State).accept .hashmix)).isSome = true := by decide
  have he : (sequencerRun 2 (({ idle with digest := 0xb456bcfc34c2cb2c#64 } : State).accept .expand)).isSome = true := by
    decide
  obtain ⟨m, hm, hd⟩ := Option.map_eq_some_iff.mp hm
  obtain ⟨h, hh⟩ := run hh
  obtain ⟨e, he⟩ := run he
  exact ⟨{ idle with seed := 1 }, m, e, h, _, { idle with digest := 0xb456bcfc34c2cb2c#64 }, _, _, rfl, rfl, hm, rfl,
    hd.symm, rfl, he, rfl, hh⟩

/-! ### Witnesses: the pure functions -/

theorem witness_PrimitivesBitByBit : (0 ≤ 63 ∧ 0 + 0 ≤ 63) ∧ (63 ≤ 63 ∧ ¬63 + 1 ≤ 63) ∧ (1 ≤ 1 ∧ 1 ≤ 63 ∧ 63 ≤ 63) := by decide
theorem witness_XorshiftIsItsOwnInverse :
    (31 ≤ 31 ∧ 31 ≤ 63) ∧ (31 ≤ 63 ∧ 63 ≤ 63) ∧ 30 ≤ 30 ∧ (0x1ffffffff#64).toNat < 2 ^ 33 := by decide
theorem witness_MixerStepsAreBijections : (1 ≤ 1 ∧ 63 ≤ 63) ∧ (1#64).getLsbD 0 = true ∧ Config.M2.getLsbD 0 = true := by decide
theorem witness_EqualFirstXorCollides : (wordBytesOf 5).length = 8 ∧ (wordBytesOf 6).length = 8 ∧
    xor64 6 (leWord (wordBytesOf 5)) = xor64 5 (leWord (wordBytesOf 6)) := by decide
theorem witness_MemReadIsLittleEndian : (1 ≤ 1 ∧ 1 ≤ 8) ∧ (1 ≤ 8 ∧ 8 ≤ 8 ∧ 7 < 8 ∧ 8 * 8 ≤ 64) := by decide
theorem witness_MemWriteIsTheOutRegisterWrite :
    (8 ≤ 8 ∧ 24 + 8 ≤ 32 ∧ 31 < 32 ∧ 24 ≤ 31) ∧ (1 ≤ 8 ∧ 0 + 1 ≤ 32 ∧ ¬(0 ≤ 1 ∧ 1 < 0 + 1)) := by decide
theorem witness_SampleBytesReadBack : (0 : Nat) < 8 ∧ 7 < 8 := by decide
theorem witness_ExpandIsThirtyTwoBytesAndInjective : (0x8000000000000000#64 : Word) ≠ 0 := by decide
theorem witness_SignedReinterpretationRoundTrip :
    (-(2 ^ 63) ≤ (-(2 ^ 63) : Int) ∧ (-(2 ^ 63) : Int) < 2 ^ 63) ∧ (-(2 ^ 63) ≤ (2 ^ 63 - 1 : Int) ∧ (2 ^ 63 - 1 : Int) < 2 ^ 63) := by
  decide

/-! ### Witnesses: reset, instances, the call boundary -/

theorem witness_ResetEventAtAnyInstant :
    (facing [.reset] (busyAt .mix .words)).agenda = .reset :: [] ∧ (facing [.reset, .wait] idle).agenda = .reset :: [.wait] := by
  decide

theorem witness_InstancesShareNothing :
    ∃ z, systemStep 1 ⟨[idle, busyAt .mix .fin1], 2⟩ = some (.next z) ∧ 0 ≠ 1 := ⟨_, rfl, by decide⟩

/-- The first instance of a system right after reset is the machine right after reset. -/
theorem test_system_reset : (System.reset 2).blocks[0]? = some State.reset ∧ (System.reset 2).draws = 2 := ⟨rfl, rfl⟩

theorem witness_CustomHashMixReturnsTheExpansion :
    ({ idle with ib := counting 9 } : State).status.busy = false ∧ ({ idle with ib := counting 9 } : State).agenda = [] ∧
    (0xb456bcfc34c2cb2c#64 : Word) = mix (({ idle with ib := counting 9 } : State).ibBytes 0 (0#64).toNat) (fingerprintBits 1) := by
  decide

theorem witness_GetHardwareSeedReturnsTheSeed :
    { idle with timeIn := some 1 }.status.busy = false ∧ { idle with timeIn := some 1 }.agenda = [] := by decide

end Sys2Proof.Tests
end

section
/-! PROOFS. The inversion lemmas of Laws/Step.lean read backwards: what `Sequenced` and `Moved` allow is what the functions
of the model answer. A claim that two states step alike is then a claim about these two relations. -/

namespace Sys2Proof.Machine

theorem Sequenced.phaseStep_eq {s t : State} (h : Sequenced s t) : phaseStep s = some t := by
  cases h with
  | startMixer c seed len hp hc ho => simp [phaseStep, hp, hc, startStep, ho]
  | startOther c hp hc ho => simp [phaseStep, hp, hc, startStep, ho]
  | word c seed len hp hc ho hi => simp [phaseStep, hp, hc, wordsStep, ho, hi]
  | wordsExit c seed len hp hc ho hi => simp [phaseStep, hp, hc, wordsStep, ho, hi]
  | tail c w hp hc ht => simp [phaseStep, hp, hc, tailStep, ht]
  | fin1 hp => simp [phaseStep, hp]
  | fin2 hp => simp [phaseStep, hp]
  | fin3 hp => simp [phaseStep, hp]
  | fin4 hp => simp [phaseStep, hp]
  | fin5 hp => simp [phaseStep, hp]
  | retire c hp hc => simp [phaseStep, hp, hc]

theorem Moved.perform_eq {s t : State} {m : Move} (h : Moved s m t) : perform m s = .next t := by
  cases h with
  | statusWrite v => rfl
  | busyWrite idx v hi hb =>
    rw [perform, hostWrite, if_neg hi, commandWrite, if_pos hb, if_pos hb, ite_self]
  | accepted v i hb hd => simp [perform, hostWrite, commandWrite, hb, hd, exec_idle hb]
  | illegal v e hb hd => simp [perform, hostWrite, commandWrite, hb, hd]
  | idleWrite idx v h0 h1 hb => rw [perform, hostWrite, if_neg h1, if_neg h0, if_neg (by simp [hb])]
  | read idx => rfl
  | waitBusy hb => simp [perform, waitMove, hb]
  | waitIdle hb => simp [perform, waitMove, hb]
  | turn _ hb h => simp [perform, sequencerMove, hb, sequencerStep_busy hb, h.phaseStep_eq]
  | quiet hb => simp [perform, sequencerMove, hb]
  | stall => rfl
  | reset => rfl
  | buffer a b hr => rw [perform, hostBuffer, if_neg hr]
  | clock v => rfl

/-- The converse of `step_cases`. -/
theorem Moved.step_eq {s t : State} {m : Move} {rest : List Move}
    (ha : s.agenda = [] ∧ rest = [] ∧ m = Move.sequencer ∨ s.agenda = m :: rest)
    (h : Moved { s with agenda := rest } m t) : step s = .next t := by
  obtain ⟨ha, rfl, rfl⟩ | ha := ha
  · have hs : { s with agenda := [] } = s := by rw [← ha]
    rw [step_nil ha, ← h.perform_eq, hs]
    rfl
  · rw [step_cons ha, h.perform_eq]

end Sys2Proof.Machine
end

section
/-! PROOFS. States that differ only in dead hidden registers (10_state.md R33), as a relation: it is equality of the live
views, and every step is a simulation of it. -/

namespace Sys2Proof.Machine

/-- `u` is `s` with other values in `ACC`, `IDX`, `CUR`, `TS`, but for those of the four that are live in `s`. -/
inductive LiveAlike (s : State) : State → Prop where
  | mk (acc idx : Word) (cur : BitVec 8) (ts : Word) (hacc : s.accLive = true → acc = s.acc)
      (hidx : s.idxLive = true → idx = s.idx) (hcur : s.status.busy = true → cur = s.cur)
      (hts : s.tsLive = true → ts = s.ts) : LiveAlike s (s.withHidden acc idx cur ts)

/-! ### Liveness looks at BUSY, PH and, while busy, CUR -/

theorem accLive_withHidden {s : State} {acc idx ts : Word} {cur : BitVec 8} (hcur : s.status.busy = true → cur = s.cur) :
    (s.withHidden acc idx cur ts).accLive = s.accLive := by
  cases hb : s.status.busy with
  | false => simp [State.accLive, State.withHidden, hb]
  | true => rw [hcur hb]; rfl

theorem tsLive_withHidden {s : State} {acc idx ts : Word} {cur : BitVec 8} (hcur : s.status.busy = true → cur = s.cur) :
    (s.withHidden acc idx cur ts).tsLive = s.tsLive := by
  cases hb : s.status.busy with
  | false => simp [State.tsLive, State.withHidden, hb]
  | true => rw [hcur hb]; rfl

theorem accLive_eq_false {s : State} (hm : s.ph.inMixer = false) (hr : s.ph ≠ .retire) : s.accLive = false := by
  simp [State.accLive, hm, hr]

theorem accLive_inMixer {s : State} (hb : s.status.busy = true) (hm : s.ph.inMixer = true) : s.accLive = true := by
  simp [State.accLive, hb, hm]

/-- RETIRE of a command that does not run the Mixer commits no `ACC`. -/
theorem accLive_retire_other {s : State} {c : Instr} (hp : s.ph = .retire) (hc : s.command = some c)
    (ho : s.mixerOperands c = none) : s.accLive = false := by
  cases c <;> simp_all [State.accLive, State.mixerOperands, Phase.inMixer]

/-! ### The relation is equality of the live views -/

/-- A register masked by its liveness determines its value where it is live, and nothing else. -/
theorem masked_eq_iff {n : Nat} {live : Bool} {x y : BitVec n} :
    ((if live then x else 0) = if live then y else 0) ↔ (live = true → y = x) := by
  cases live <;> simp [eq_comm]

theorem LiveAlike.of_liveView_eq {s u : State} (h : s.liveView = u.liveView) : LiveAlike s u := by
  have hu : u = s.withHidden u.acc u.idx u.cur u.ts :=
    (congrArg (State.withHidden u.acc u.idx u.cur u.ts) h).symm
  generalize u.acc = acc, u.idx = idx, u.cur = cur, u.ts = ts at hu
  subst hu
  have hcur : s.status.busy = true → cur = s.cur := masked_eq_iff.mp (congrArg State.cur h)
  have hacc := congrArg State.acc h
  have hts := congrArg State.ts h
  simp only [State.liveView, accLive_withHidden hcur, tsLive_withHidden hcur] at hacc hts
  exact ⟨acc, idx, cur, ts, masked_eq_iff.mp hacc, masked_eq_iff.mp (congrArg State.idx h), hcur, masked_eq_iff.mp hts⟩

theorem LiveAlike.liveView_eq {s u : State} (h : LiveAlike s u) : s.liveView = u.liveView := by
  obtain ⟨acc, idx, cur, ts, hacc, hidx, hcur, hts⟩ := h
  rw [State.liveView, State.liveView, accLive_withHidden hcur, tsLive_withHidden hcur, masked_eq_iff.mpr hacc,
    masked_eq_iff.mpr hidx, masked_eq_iff.mpr hcur, masked_eq_iff.mpr hts]
  rfl

/-! ### What alike states have in common -/

theorem LiveAlike.status {s u : State} (h : LiveAlike s u) : u.status = s.status := by cases h; rfl
theorem LiveAlike.len {s u : State} (h : LiveAlike s u) : u.len = s.len := by cases h; rfl
theorem LiveAlike.ph {s u : State} (h : LiveAlike s u) : u.ph = s.ph := by cases h; rfl
theorem LiveAlike.agenda {s u : State} (h : LiveAlike s u) : u.agenda = s.agenda := by cases h; rfl
theorem LiveAlike.reads {s u : State} (h : LiveAlike s u) : u.reads = s.reads := by cases h; rfl
theorem LiveAlike.results {s u : State} (h : LiveAlike s u) : u.results = s.results := by cases h; rfl
theorem LiveAlike.ibByte {s u : State} (h : LiveAlike s u) (a : Word) : u.ibByte a = s.ibByte a := by cases h; rfl

theorem LiveAlike.memRead {s u : State} (h : LiveAlike s u) (a : Word) (n : Nat) : u.memRead a n = s.memRead a n :=
  memRead_congr fun _ _ => h.ibByte _

theorem LiveAlike.mixerOperands {s u : State} (h : LiveAlike s u) (c : Instr) :
    u.mixerOperands c = s.mixerOperands c := by cases h; rfl

theorem LiveAlike.tailWord {s u : State} (h : LiveAlike s u) (c : Instr) : u.tailWord c = s.tailWord c := by
  rw [State.tailWord, State.tailWord, h.len, h.memRead]

/-! The live registers themselves. -/

theorem LiveAlike.acc {s u : State} (h : LiveAlike s u) (hl : s.accLive = true) : u.acc = s.acc := by
  obtain ⟨acc, idx, cur, ts, hacc, -, -, -⟩ := h
  exact hacc hl

theorem LiveAlike.idx {s u : State} (h : LiveAlike s u) (hl : s.idxLive = true) : u.idx = s.idx := by
  obtain ⟨acc, idx, cur, ts, -, hidx, -, -⟩ := h
  exact hidx hl

theorem LiveAlike.ts {s u : State} (h : LiveAlike s u) (hl : s.tsLive = true) : u.ts = s.ts := by
  obtain ⟨acc, idx, cur, ts, -, -, -, hts⟩ := h
  exact hts hl

theorem LiveAlike.command {s u : State} (h : LiveAlike s u) (hb : s.status.busy = true) : u.command = s.command := by
  obtain ⟨acc, idx, cur, ts, -, -, hcur, -⟩ := h
  exact command_congr (hcur hb)

theorem LiveAlike.readsBuffer {s u : State} (h : LiveAlike s u) : u.readsBuffer = s.readsBuffer := by
  rw [State.readsBuffer, State.readsBuffer, h.status]
  cases hb : s.status.busy with
  | false => rfl
  | true => rw [h.command hb]

/-- The word absorbed next: `TS` is live where it is the sample. -/
theorem LiveAlike.fullWord {s u : State} {c : Instr} (h : LiveAlike s u) (hb : s.status.busy = true)
    (hc : s.command = some c) (k : Word) : u.fullWord c k = s.fullWord c k := by
  rw [State.fullWord, State.fullWord, h.memRead]
  split_ifs with hs
  · exact h.ts (by simp [State.tsLive, hb, hc, hs])
  · rfl

/-! ### Updates keep it -/

/-- An update that neither reads nor writes a hidden register, and keeps BUSY and PH, keeps the relation. -/
theorem LiveAlike.map {s u : State} (h : LiveAlike s u) (f : State → State)
    (hf : ∀ acc idx cur ts, f (s.withHidden acc idx cur ts) = (f s).withHidden acc idx cur ts)
    (hb : (f s).status.busy = s.status.busy) (hp : (f s).ph = s.ph) : LiveAlike (f s) (f u) := by
  have hs : f s = (f s).withHidden s.acc s.idx s.cur s.ts := hf s.acc s.idx s.cur s.ts
  have hc : (f s).command = s.command := command_congr ((congrArg State.cur hs).trans rfl)
  obtain ⟨acc, idx, cur, ts, hacc, hidx, hcur, hts⟩ := h
  rw [hf]
  refine ⟨acc, idx, cur, ts, fun hl => ?_, fun hl => ?_, fun hl => ?_, fun hl => ?_⟩
  · rw [congrArg State.acc hs]; exact hacc (by simpa only [State.accLive, hb, hp, hc] using hl)
  · rw [congrArg State.idx hs]; exact hidx (by simpa only [State.idxLive, hb, hp] using hl)
  · rw [congrArg State.cur hs]; exact hcur (hb ▸ hl)
  · rw [congrArg State.ts hs]; exact hts (by simpa only [State.tsLive, hb, hc] using hl)

theorem LiveAlike.writeReg {s u : State} (h : LiveAlike s u) (idx : BitVec 4) (v : Word) :
    LiveAlike (s.writeReg idx v) (u.writeReg idx v) := by
  unfold State.writeReg
  split_ifs
  · exact h.map (fun s => { s with seed := v }) (fun _ _ _ _ => rfl) rfl rfl
  · exact h.map (fun s => { s with len := v }) (fun _ _ _ _ => rfl) rfl rfl
  · exact h.map (fun s => { s with digest := v }) (fun _ _ _ _ => rfl) rfl rfl
  · exact h

/-- In an idle block every hidden register is dead. -/
theorem LiveAlike.of_idle {s : State} {acc idx ts : Word} {cur : BitVec 8} (hb : s.status.busy = false) :
    LiveAlike s (s.withHidden acc idx cur ts) :=
  ⟨acc, idx, cur, ts, by simp [State.accLive, hb], by simp [State.idxLive, hb], by simp [hb],
    by simp [State.tsLive, hb]⟩

/-- The reset event sets all four registers (70_reset_and_hazards.md R240). -/
theorem LiveAlike.rst {s u : State} (h : LiveAlike s u) : LiveAlike s.rst u.rst := by
  cases h
  exact .of_idle rfl

theorem LiveAlike.sampleTime {s u : State} (h : LiveAlike s u) : LiveAlike s.sampleTime u.sampleTime := by
  obtain ⟨acc, idx, cur, ts, hacc, hidx, hcur, -⟩ := h
  exact ⟨acc, idx, cur, s.sample, hacc, hidx, hcur, fun _ => rfl⟩

theorem LiveAlike.sampleTime_ts {s u : State} (h : LiveAlike s u) : u.sampleTime.ts = s.sampleTime.ts := by
  cases h; rfl

/-- An accept writes `CUR` and goes to START, where `ACC` and `IDX` are dead and `TS` is live for a SEEDGEN alone. -/
theorem LiveAlike.accept {s u : State} (h : LiveAlike s u) (i : Instr) (hi : i = .seedgen → u.ts = s.ts) :
    LiveAlike (s.accept i) (u.accept i) := by
  obtain ⟨acc, idx, cur, ts, -, -, -, -⟩ := h
  have hdead : (s.accept i).accLive = false := accLive_eq_false rfl (by simp)
  have hseedgen (hl : (s.accept i).tsLive = true) : i = .seedgen := by simpa [State.tsLive] using hl
  exact ⟨acc, idx, encode i, ts, by simp [hdead], by simp [State.idxLive], fun _ => rfl, fun hl => hi (hseedgen hl)⟩

theorem LiveAlike.taken {s u : State} (h : LiveAlike s u) (i : Instr) : LiveAlike (taken i s) (taken i u) := by
  cases i with
  | mix => exact h.accept .mix nofun
  | expand => exact h.accept .expand nofun
  | hashmix => exact h.accept .hashmix nofun
  | hashmixA => exact h.accept .hashmixA nofun
  | seedgen => exact h.sampleTime.accept .seedgen fun _ => h.sampleTime_ts

/-! ### Every step is a simulation -/

/-- A step out of a phase of the Mixer to one other than WORDS: `ACC` is live before it and `IDX` dead after it. -/
theorem LiveAlike.mixerStep {s u : State} (h : LiveAlike s u) (hb : s.status.busy = true) (hm : s.ph.inMixer = true)
    (f : Word → Word) {p : Phase} (hp : p ≠ .words) :
    LiveAlike { s with acc := f s.acc, ph := p } { u with acc := f u.acc, ph := p } := by
  obtain ⟨acc, idx, cur, ts, hacc, -, hcur, hts⟩ := h
  exact ⟨f acc, idx, cur, ts, fun _ => congrArg f (hacc (accLive_inMixer hb hm)), by simp [State.idxLive, hp], hcur, hts⟩

/-- RETIRE reads `ACC` and `TS` only for the commands in which they are live there, and leaves the block idle. -/
theorem LiveAlike.retireStep {s u : State} {c : Instr} (h : LiveAlike s u) (hb : s.status.busy = true)
    (hp : s.ph = .retire) (hc : s.command = some c) : LiveAlike (retireStep c s) (retireStep c u) := by
  obtain ⟨acc, idx, cur, ts, hacc, -, -, hts⟩ := h
  cases c with
  | mix =>
    rw [hacc (by simp [State.accLive, hb, hp, hc])]
    exact .of_idle rfl
  | expand => exact .of_idle rfl
  | hashmix =>
    rw [hacc (by simp [State.accLive, hb, hp, hc])]
    exact .of_idle rfl
  | hashmixA => exact .of_idle rfl
  | seedgen =>
    rw [hacc (by simp [State.accLive, hb, hp, hc]), hts (by simp [State.tsLive, hb, hc])]
    exact .of_idle rfl

theorem Sequenced.simulates {s t u : State} (h : Sequenced s t) (hb : s.status.busy = true) (hu : LiveAlike s u) :
    ∃ v, Sequenced u v ∧ LiveAlike t v := by
  have hph := hu.ph
  have hcom := hu.command hb
  cases h with
  | startMixer c seed len hp hc ho =>
    refine ⟨_, .startMixer c seed len (hph.trans hp) (hcom.trans hc) ((hu.mixerOperands c).trans ho), ?_⟩
    obtain ⟨acc, idx, cur, ts, -, -, hcur, hts⟩ := hu
    exact ⟨_, _, cur, ts, fun _ => rfl, fun _ => rfl, hcur, hts⟩
  | startOther c hp hc ho =>
    refine ⟨_, .startOther c (hph.trans hp) (hcom.trans hc) ((hu.mixerOperands c).trans ho), ?_⟩
    have hdead : State.accLive { s with ph := .retire } = false := accLive_retire_other rfl hc ho
    obtain ⟨acc, idx, cur, ts, -, -, hcur, hts⟩ := hu
    exact ⟨acc, idx, cur, ts, by simp [hdead], by simp [State.idxLive], hcur, hts⟩
  | word c seed len hp hc ho hi =>
    have hidx := hu.idx (by simp [State.idxLive, hb, hp])
    have hacc := hu.acc (accLive_inMixer hb (by rw [hp]; rfl))
    have hword := hu.fullWord hb hc s.idx
    refine ⟨_, .word c seed len (hph.trans hp) (hcom.trans hc) ((hu.mixerOperands c).trans ho) (hidx ▸ hi), ?_⟩
    rw [wordStep, wordStep, hidx, hacc, hword]
    obtain ⟨acc, idx, cur, ts, -, -, hcur, hts⟩ := hu
    exact ⟨_, _, cur, ts, fun _ => rfl, fun _ => rfl, hcur, hts⟩
  | wordsExit c seed len hp hc ho hi =>
    have hidx := hu.idx (by simp [State.idxLive, hb, hp])
    exact ⟨_, .wordsExit c seed len (hph.trans hp) (hcom.trans hc) ((hu.mixerOperands c).trans ho) (hidx.trans hi),
      hu.mixerStep hb (by rw [hp]; rfl) id (by split <;> simp)⟩
  | tail c w hp hc ht =>
    exact ⟨_, .tail c w (hph.trans hp) (hcom.trans hc) ((hu.tailWord c).trans ht),
      hu.mixerStep hb (by rw [hp]; rfl) (tailRound · w) (by simp)⟩
  | fin1 hp => exact ⟨_, .fin1 (hph.trans hp), hu.mixerStep hb (by rw [hp]; rfl) xorshift33 (by simp)⟩
  | fin2 hp => exact ⟨_, .fin2 (hph.trans hp), hu.mixerStep hb (by rw [hp]; rfl) (mul64 · Config.F1) (by simp)⟩
  | fin3 hp => exact ⟨_, .fin3 (hph.trans hp), hu.mixerStep hb (by rw [hp]; rfl) xorshift33 (by simp)⟩
  | fin4 hp => exact ⟨_, .fin4 (hph.trans hp), hu.mixerStep hb (by rw [hp]; rfl) (mul64 · Config.F2) (by simp)⟩
  | fin5 hp => exact ⟨_, .fin5 (hph.trans hp), hu.mixerStep hb (by rw [hp]; rfl) xorshift33 (by simp)⟩
  | retire c hp hc => exact ⟨_, .retire c (hph.trans hp) (hcom.trans hc), hu.retireStep hb hp hc⟩

theorem Moved.simulates {s t u : State} {m : Move} (h : Moved s m t) (hu : LiveAlike s u) :
    ∃ v, Moved u m v ∧ LiveAlike t v := by
  have hbusy : u.status.busy = s.status.busy := congrArg Status.busy hu.status
  cases h with
  | statusWrite v => exact ⟨_, .statusWrite v, hu.map (State.clearFlags v) (fun _ _ _ _ => rfl) rfl rfl⟩
  | busyWrite idx v hi hb =>
    exact ⟨_, .busyWrite idx v hi (hbusy.trans hb), hu.map State.raiseEbusy (fun _ _ _ _ => rfl) rfl rfl⟩
  | accepted v i hb hd => exact ⟨_, .accepted v i (hbusy.trans hb) hd, hu.taken i⟩
  | illegal v e hb hd =>
    exact ⟨_, .illegal v e (hbusy.trans hb) hd, hu.map State.raiseEill (fun _ _ _ _ => rfl) rfl rfl⟩
  | idleWrite idx v h0 h1 hb => exact ⟨_, .idleWrite idx v h0 h1 (hbusy.trans hb), hu.writeReg idx v⟩
  | read idx => exact ⟨_, .read idx, hu.map (State.hostRead idx) (fun _ _ _ _ => rfl) rfl rfl⟩
  | waitBusy hb =>
    exact ⟨_, .waitBusy (hbusy.trans hb),
      hu.map (fun s => { s.hostRead 0x1 with agenda := .sequencer :: .wait :: s.agenda }) (fun _ _ _ _ => rfl) rfl rfl⟩
  | waitIdle hb => exact ⟨_, .waitIdle (hbusy.trans hb), hu.map (State.hostRead 0x1) (fun _ _ _ _ => rfl) rfl rfl⟩
  | turn _ hb h =>
    obtain ⟨v, hv, htv⟩ := h.simulates hb hu
    exact ⟨v, .turn v (hbusy.trans hb) hv, htv⟩
  | quiet hb => exact ⟨u, .quiet (hbusy.trans hb), hu⟩
  | stall => exact ⟨u, .stall, hu⟩
  | reset => exact ⟨_, .reset, hu.rst⟩
  | buffer a b hr =>
    exact ⟨_, .buffer a b (by rwa [hu.readsBuffer, hu.len, hu.ibByte]),
      hu.map (State.storeBuffer a b) (fun _ _ _ _ => rfl) rfl rfl⟩
  | clock v => exact ⟨_, .clock v, hu.map (fun s => { s with timeIn := some v }) (fun _ _ _ _ => rfl) rfl rfl⟩

/-- `LiveAlike` is a simulation of the machine's step. -/
theorem LiveAlike.step_simulates {s t u : State} (hu : LiveAlike s u) (h : step s = .next t) :
    ∃ v, step u = .next v ∧ LiveAlike t v := by
  obtain ⟨m, rest, ha, hm⟩ := step_cases h
  obtain ⟨v, hv, htv⟩ :=
    hm.simulates (hu.map (fun s => { s with agenda := rest }) (fun _ _ _ _ => rfl) rfl rfl)
  exact ⟨v, hv.step_eq (by rwa [hu.agenda]), htv⟩

/-- Settles O38: equality of the live views is the relation `LiveAlike`, which every step simulates and under which the
reads and the result registers are equal. -/
theorem deadHiddenRegistersNeverMatter : Obligations.DeadHiddenRegistersNeverMatter := by
  unfold Obligations.DeadHiddenRegistersNeverMatter
  intro s u t hview hstep
  obtain ⟨v, hv, htv⟩ := (LiveAlike.of_liveView_eq hview).step_simulates hstep
  exact ⟨v, hv, htv.liveView_eq, htv.reads.symm, htv.results.symm⟩

end Sys2Proof.Machine
end

section
/-! PROOFS. The register port of 10_state.md: the decoder's accepted words, the command write, host reads and writes by
index, the signed reading of a register, and the reset table. -/

namespace Sys2Proof

/-! ### Words that decode -/

theorem eq_append_fields (v : Word) :
    v = (fieldsOf v).upper ++ (fieldsOf v).zero ++ (fieldsOf v).abs ++ (fieldsOf v).op := by
  simp only [fieldsOf]
  rw [BitVec.extractLsb'_append_extractLsb'_eq_extractLsb' (by rfl), BitVec.extractLsb'_append_extractLsb'_eq_extractLsb' (by rfl),
    BitVec.extractLsb'_append_extractLsb'_eq_extractLsb' (by rfl), BitVec.extractLsb'_eq_self]

theorem decode_ok_fields {v : Word} {i : Instr} (h : decode v = .ok i) :
    (fieldsOf v).upper = 0 ∧ (fieldsOf v).zero = 0 ∧ decodeOp (fieldsOf v).op (fieldsOf v).abs = .ok i := by
  rw [decode] at h
  split_ifs at h with hu hz
  exact ⟨by simpa [Fields.upperOk] using hu, by simpa [Fields.zeroOk] using hz, h⟩

/-- Of the sixteen pairs of operation and absent flag the decoder accepts the five of 30_encoding.md R83. -/
theorem encodeWrite_of_decodeOp : ∀ (op : BitVec 3) (abs : BitVec 1) (i : Instr), decodeOp op abs = .ok i →
    (0 : BitVec 56) ++ (0 : BitVec 4) ++ abs ++ op = encodeWrite i := by
  intro op abs i
  cases i <;> revert op abs <;> decide

theorem eq_encodeWrite_of_decode {v : Word} {i : Instr} (h : decode v = .ok i) : v = encodeWrite i := by
  obtain ⟨hu, hz, ho⟩ := decode_ok_fields h
  rw [← encodeWrite_of_decodeOp _ _ _ ho, ← hu, ← hz]
  exact eq_append_fields v

/-- A word that is no command's word is illegal. -/
theorem decode_error_of_ne {v : Word} (h : ∀ i, v ≠ encodeWrite i) : ∃ e, decode v = .error e := by
  cases hd : decode v with
  | ok i => exact absurd (eq_encodeWrite_of_decode hd) (h i)
  | error e => exact ⟨e, rfl⟩

theorem decode_of_decodeTableWord {nbits w : Nat} {i : Instr} (h : decodeTableWord nbits w = some i) :
    decode (BitVec.ofNat 64 (tableValue nbits w)) = .ok i := by
  rw [decodeTableWord] at h
  split_ifs at h
  cases hd : decode (BitVec.ofNat 64 (tableValue nbits w)) with
  | ok j => rw [hd] at h; cases h; rfl
  | error e => rw [hd] at h; cases h

end Sys2Proof

namespace Sys2Proof.Machine

/-! ### The write of a command word -/

/-- The write of a word that decodes is the command, idle or busy: a busy block drops every command alike. -/
theorem commandWrite_of_decode {v : Word} {i : Instr} (hd : decode v = .ok i) (s : State) :
    commandWrite v s = exec i s := by
  rw [commandWrite, hd]
  split_ifs with hb
  · exact (exec_busy hb).symm
  · rfl

/-- Settles O4: the write to CMD is `commandWrite`, which on a word that decodes is `exec`. -/
theorem stepRunsDecodedCommand : Obligations.StepRunsDecodedCommand := by
  unfold Obligations.StepRunsDecodedCommand
  intro s v rest i ha hd
  rw [step_cons ha]
  exact commandWrite_of_decode hd _

/-- Settles O5: the placed word is the next move, and taking it off gives the state back. -/
theorem placedWordRunsNext : Obligations.PlacedWordRunsNext := by
  unfold Obligations.PlacedWordRunsNext
  intro s nbits w i h
  exact stepRunsDecodedCommand (s.withFetchWord nbits w) _ s.agenda i rfl (decode_of_decodeTableWord h)

/-! ### Host accesses by index -/

theorem writeReg_dropped {idx : BitVec 4} (h : 0x5 ≤ idx) (v : Word) (s : State) : s.writeReg idx v = s := by
  have hne : idx ≠ 0x2 ∧ idx ≠ 0x3 ∧ idx ≠ 0x4 := by revert idx; decide
  obtain ⟨h2, h3, h4⟩ := hne
  rw [State.writeReg, if_neg h2, if_neg h3, if_neg h4]

/-- From index 0x5 on a write while idle is dropped with no flag (10_state.md R35). -/
theorem step_write_dropped {s : State} {idx : BitVec 4} {v : Word} {rest : List Move}
    (ha : s.agenda = .write idx v :: rest) (hb : s.status.busy = false) (h : 0x5 ≤ idx) :
    step s = .next { s with agenda := rest } := by
  have hne : idx ≠ 0x0 ∧ idx ≠ 0x1 := by clear ha; revert idx; decide
  have hm := Moved.idleWrite (s := { s with agenda := rest }) idx v hne.1 hne.2 hb
  rw [writeReg_dropped h] at hm
  exact hm.step_eq (.inr ha)

/-- Write-1-to-clear, said with `&&` in `clearFlags` (44_sequencer.md R204). -/
theorem and_not_eq_ite (flag clear : Bool) : (flag && !clear) = if clear then false else flag := by
  cases clear <;> simp

/-- Settles O18: each clause is the case of `Moved` for its index. -/
theorem idleWritesByIndex : Obligations.IdleWritesByIndex := by
  unfold Obligations.IdleWritesByIndex
  intro s idx v rest ha hb
  refine ⟨?_, ?_, ?_, ?_, ?_, ?_, step_write_dropped ha hb⟩
  · rintro i rfl rfl
    exact stepRunsDecodedCommand s _ rest i ha (decode_encodeWrite i)
  · rintro rfl hne
    obtain ⟨e, he⟩ := decode_error_of_ne hne
    exact Moved.step_eq (.inr ha) (.illegal v e hb he)
  · rintro rfl
    rw [(Moved.statusWrite v).step_eq (.inr ha)]
    simp [State.clearFlags, and_not_eq_ite, hb]
  · rintro rfl
    exact Moved.step_eq (.inr ha) (.idleWrite 0x2 v (by decide) (by decide) hb)
  · rintro rfl
    exact Moved.step_eq (.inr ha) (.idleWrite 0x3 v (by decide) (by decide) hb)
  · rintro rfl
    exact Moved.step_eq (.inr ha) (.idleWrite 0x4 v (by decide) (by decide) hb)

theorem statusWord_toNat (f : Status) :
    (statusWord f).toNat = f.busy.toNat + 2 * f.eill.toNat + 4 * f.ebusy.toNat := by
  obtain ⟨busy, eill, ebusy⟩ := f
  revert busy eill ebusy
  decide

/-- The reserved indices read 0 (10_state.md R29). -/
theorem readReg_reserved {idx : BitVec 4} (h : idx = 0x7 ∨ 0xC ≤ idx) (s : State) : s.readReg idx = 0 := by
  have hidx : idx = 0x7 ∨ idx = 0xC ∨ idx = 0xD ∨ idx = 0xE ∨ idx = 0xF := by revert idx; decide
  obtain rfl | rfl | rfl | rfl | rfl := hidx <;> rfl

/-- Settles O19: the value read is `readReg`, the table of 10_state.md R20. -/
theorem hostReadGivesTheRegister : Obligations.HostReadGivesTheRegister := by
  unfold Obligations.HostReadGivesTheRegister
  intro s idx rest ha
  refine ⟨s.readReg idx, (Moved.read idx).step_eq (.inr ha), ?_⟩
  refine ⟨?_, ?_, ?_, ?_, ?_, ?_, ?_, ?_, ?_, ?_, ?_, ?_, fun h => readReg_reserved (.inr h) s⟩ <;> rintro rfl
  case refine_2 => exact statusWord_toNat s.status
  case refine_7 => exact BitVec.toNat_setWidth_of_le (w := 6) (by decide)
  all_goals rfl

/-- Settles O20: a reserved index is above 0x4, so an idle block drops the write; a busy one drops it with EBUSY. -/
theorem reservedIndicesHoldNothing : Obligations.ReservedIndicesHoldNothing := by
  unfold Obligations.ReservedIndicesHoldNothing
  intro s idx v rest h
  have hidx : 0x5 ≤ idx ∧ idx ≠ 0x1 := by revert idx; decide
  refine ⟨readReg_reserved h s, fun ha => ⟨fun hb => step_write_dropped ha hb hidx.1, fun hb => ?_⟩⟩
  exact Moved.step_eq (.inr ha) (.busyWrite idx v hidx.2 hb)

/-! ### Signed readings and reset -/

/-- Settles O51: in the signed range `BitVec.ofInt` and `BitVec.toInt` are inverse. -/
theorem signedReinterpretationRoundTrip : Obligations.SignedReinterpretationRoundTrip :=
  ⟨fun _ hlo hhi => BitVec.toInt_ofInt_eq_self (by decide) hlo hhi, by decide, by decide⟩

/-- Settles O52: the fields of `State.reset` as written, and index 0x0 holds no state. -/
theorem resetTable : Obligations.ResetTable := by
  unfold Obligations.ResetTable
  exact ⟨rfl, rfl, rfl, rfl, rfl, rfl, rfl, rfl, rfl, rfl, rfl, rfl⟩

end Sys2Proof.Machine
end

section
/-! PROOFS. The invariant of the machine: taken apart once, kept by the updates that leave a running command's work alone,
by each step of the sequencer, by an accept and by everything that ends in an idle block; so every step keeps it. -/

namespace Sys2Proof.Machine

/-- OUTLEN is 0 or 32 (10_state.md R27). -/
def State.OutlenOk (s : State) : Prop := s.outlen = 0 ∨ s.outlen = Config.outBytes

theorem inv_iff {s : State} : s.Inv ↔
    (s.status.busy = true ↔ s.ph ≠ .idle) ∧ s.phaseOk = true ∧ s.OutlenOk ∧ Memory.wf s.ib = true ∧ s.Tracks := by
  have hbusy : (s.status.busy == (s.ph != .idle)) = true ↔ (s.status.busy = true ↔ s.ph ≠ .idle) := by
    rw [beq_iff_eq, Bool.eq_iff_iff, bne_iff_ne]
  simp only [State.Inv, State.coherent, State.OutlenOk, Bool.and_eq_true, Bool.or_eq_true, hbusy, beq_iff_eq, and_assoc]

/-- While idle nothing is asked of the hidden registers. -/
theorem inv_of_idle {s : State} (hb : s.status.busy = false) (hp : s.ph = .idle) (ho : s.OutlenOk)
    (hw : Memory.wf s.ib = true) : s.Inv :=
  inv_iff.mpr ⟨by simp [hb, hp], by simp [State.phaseOk, hp], ho, hw, fun _ _ _ h => absurd h (by simp [hb])⟩

theorem State.Inv.ph_idle {s : State} (h : s.Inv) (hb : s.status.busy = false) : s.ph = .idle := by
  by_contra hp
  exact absurd ((inv_iff.mp h).1.mpr hp) (by simp [hb])

theorem State.Inv.outlenOk {s : State} (h : s.Inv) : s.OutlenOk := (inv_iff.mp h).2.2.1

theorem State.Inv.wf {s : State} (h : s.Inv) : Memory.wf s.ib = true := (inv_iff.mp h).2.2.2.1

/-- In WORDS `IDX` is at most q (10_state.md R32). -/
theorem idx_le_of_words {s : State} {c : Instr} {seed len : Word} (h : s.phaseOk = true) (hp : s.ph = .words)
    (hc : s.command = some c) (ho : s.mixerOperands c = some (seed, len)) : s.idx ≤ fullWords len := by
  simpa [State.phaseOk, hp, hc, ho] using h

/-! ### Updates that leave the running command's work alone -/

/-- The two states are at the same point of the same command, and what it is still to read is the same. -/
structure SameWork (s t : State) : Prop where
  busy : t.status.busy = s.status.busy
  ph : t.ph = s.ph
  outlen : t.outlen = s.outlen
  idx : t.idx = s.idx
  acc : t.acc = s.acc
  command : t.command = s.command
  mixerOperands : ∀ c, t.mixerOperands c = s.mixerOperands c
  tailWord : ∀ c, s.command = some c → t.tailWord c = s.tailWord c
  fullWord : ∀ c seed len, s.command = some c → s.mixerOperands c = some (seed, len) →
    ∀ k < fullWords len, t.fullWord c k = s.fullWord c k

theorem SameOperands.sameWork {s t : State} (h : SameOperands s t) (hb : t.status.busy = s.status.busy)
    (hp : t.ph = s.ph) (ho : t.outlen = s.outlen) (hi : t.idx = s.idx) (ha : t.acc = s.acc) : SameWork s t :=
  ⟨hb, hp, ho, hi, ha, h.command, h.mixerOperands, fun c _ => h.tailWord c, fun c _ _ _ _ k _ => h.fullWord c k⟩

theorem SameWork.phaseOk {s t : State} (h : SameWork s t) : t.phaseOk = s.phaseOk := by
  rw [State.phaseOk, State.phaseOk, h.ph, h.command, h.idx]
  cases hc : s.command with
  | none => cases s.ph <;> rfl
  | some c => cases s.ph <;> simp [h.mixerOperands, h.tailWord c hc]

section
variable {s t : State} (h : SameWork s t) {c : Instr} {seed len : Word} (hc : s.command = some c)
  (ho : s.mixerOperands c = some (seed, len))
include h hc ho

theorem SameWork.absorb {n : Nat} (hn : n ≤ (fullWords len).toNat) (a : Word) :
    absorb (fun k => t.fullWord c (BitVec.ofNat 64 k)) n a = absorb (fun k => s.fullWord c (BitVec.ofNat 64 k)) n a := by
  refine absorb_congr fun j hj => h.fullWord c seed len hc ho _ ?_
  have := (fullWords len).isLt
  rw [BitVec.lt_def, BitVec.toNat_ofNat, Nat.mod_eq_of_lt (by omega)]
  omega

theorem SameWork.accWords : t.accWords c seed len = s.accWords c seed len := h.absorb hc ho le_rfl _

theorem SameWork.accTail : t.accTail c seed len = s.accTail c seed len := by
  rw [State.accTail, State.accTail, h.tailWord c hc, h.accWords hc ho]

theorem SameWork.expectedAcc (hok : s.phaseOk = true) : t.expectedAcc c seed len = s.expectedAcc c seed len := by
  rw [State.expectedAcc, State.expectedAcc, h.ph, h.acc, h.idx, h.accWords hc ho, h.accTail hc ho]
  cases hp : s.ph with
  | words => exact h.absorb hc ho (idx_le_of_words hok hp hc ho) _
  | _ => rfl

end

theorem State.Inv.of_sameWork {s t : State} (h : s.Inv) (hst : SameWork s t) (hw : Memory.wf t.ib = true) : t.Inv := by
  obtain ⟨hidle, hok, hout, -, htracks⟩ := inv_iff.mp h
  refine inv_iff.mpr ⟨by rwa [hst.busy, hst.ph], hst.phaseOk.trans hok, by rwa [State.OutlenOk, hst.outlen], hw, ?_⟩
  intro c seed len hb hc ho
  rw [hst.busy] at hb
  rw [hst.command] at hc
  rw [hst.mixerOperands] at ho
  rw [hst.acc, hst.expectedAcc hc ho hok, htracks c seed len hb hc ho]

/-- The invariant does not look at the flags but BUSY, nor at the announced time, the agenda and the reads. -/
theorem State.Inv.update {s : State} (h : s.Inv) {status : Status} (hb : status.busy = s.status.busy)
    (timeIn : Option Word) (agenda : List Move) (reads : List (BitVec 4 × Word)) :
    State.Inv { s with status := status, timeIn := timeIn, agenda := agenda, reads := reads } :=
  h.of_sameWork (SameOperands.sameWork ⟨rfl, rfl, rfl, rfl, rfl⟩ hb rfl rfl rfl rfl) h.wf

/-! ### The host's stores and register writes -/

/-- A store that is not refused while MIX or HASHMIX runs changes no byte of the message (70_reset_and_hazards.md R247). -/
theorem ibByte_storeBuffer_below {s : State} {a : Word} {b : Byte} (hw : Memory.wf s.ib = true)
    (hr : ¬(a < s.len ∧ b ≠ s.ibByte a)) : ∀ x, x < s.len → (s.storeBuffer a b).ibByte x = s.ibByte x := by
  intro x hx
  by_cases hb : b = s.ibByte a
  · rw [hb, ibByte_storeBuffer_idle hw]
  · exact ibByte_storeBuffer_ne fun e => hr ⟨e ▸ hx, hb⟩

theorem sameWork_storeBuffer {s : State} {a : Word} {b : Byte} (hw : Memory.wf s.ib = true)
    (hb : s.status.busy = true) (hr : ¬(s.readsBuffer = true ∧ a < s.len ∧ b ≠ s.ibByte a)) :
    SameWork s (s.storeBuffer a b) := by
  have hbelow {c : Instr} (hc : s.command = some c) (hm : c = .mix ∨ c = .hashmix) :
      ∀ x, x < s.len → (s.storeBuffer a b).ibByte x = s.ibByte x :=
    ibByte_storeBuffer_below hw fun h => hr ⟨by simpa [State.readsBuffer, hb, hc] using hm, h⟩
  refine ⟨rfl, rfl, rfl, rfl, rfl, rfl, fun _ => rfl, fun c hc => ?_, fun c seed len hc ho k hk => ?_⟩
  · by_cases hm : c = .mix ∨ c = .hashmix
    · exact tailWord_below rfl (hbelow hc hm)
    · rw [tailWord_other hm, tailWord_other hm]
  · by_cases hm : c = .mix ∨ c = .hashmix
    · obtain ⟨-, rfl⟩ : s.seed = seed ∧ s.len = len := by simpa [mixerOperands_buffer hm] using ho
      rw [fullWord_buffer hm, fullWord_buffer hm]
      exact memRead_below (hbelow hc hm) (fullWord_end hk)
    · cases c with
      | mix => exact absurd (.inl rfl) hm
      | hashmix => exact absurd (.inr rfl) hm
      | seedgen => simp
      | expand => cases ho
      | hashmixA => cases ho

theorem State.Inv.storeBuffer {s : State} {a : Word} {b : Byte} (h : s.Inv)
    (hr : ¬(s.readsBuffer = true ∧ a < s.len ∧ b ≠ s.ibByte a)) : (s.storeBuffer a b).Inv := by
  have hw : Memory.wf (s.storeBuffer a b).ib = true := Memory.wf_write h.wf
  cases hb : s.status.busy with
  | false => exact inv_of_idle hb (h.ph_idle hb) h.outlenOk hw
  | true => exact h.of_sameWork (sameWork_storeBuffer h.wf hb hr) hw

theorem State.Inv.writeReg {s : State} (h : s.Inv) (hb : s.status.busy = false) (idx : BitVec 4) (v : Word) :
    (s.writeReg idx v).Inv := by
  have hp := h.ph_idle hb
  obtain e | e | e | e := writeReg_cases idx v s
  · rw [e]; exact inv_of_idle hb hp h.outlenOk h.wf
  · rw [e]; exact inv_of_idle hb hp h.outlenOk h.wf
  · rw [e]; exact inv_of_idle hb hp h.outlenOk h.wf
  · rw [e]; exact h

/-- The accept of a command goes to START, where `CUR` holds its word and nothing is asked of `ACC`. -/
theorem inv_accept {s : State} (i : Instr) (ho : s.OutlenOk) (hw : Memory.wf s.ib = true) : (s.accept i).Inv :=
  inv_iff.mpr ⟨by simp, by simp [State.phaseOk], ho, hw, fun _ _ _ _ _ _ => rfl⟩

theorem State.Inv.taken {s : State} (h : s.Inv) (i : Instr) : (taken i s).Inv := by
  cases i with
  | mix => exact inv_accept .mix h.outlenOk h.wf
  | expand => exact inv_accept .expand h.outlenOk h.wf
  | hashmix => exact inv_accept .hashmix h.outlenOk h.wf
  | hashmixA => exact inv_accept .hashmixA h.outlenOk h.wf
  | seedgen => exact inv_accept (s := s.sampleTime) .seedgen h.outlenOk h.wf

/-! ### The sequencer's steps -/

/-- The state with its sequencer moved on: `ACC`, `IDX` and `PH` take new values (44_sequencer.md R187 to R195). -/
def State.advance (acc idx : Word) (p : Phase) (s : State) : State := { s with acc := acc, idx := idx, ph := p }

section
variable (acc idx : Word) (p : Phase) (s : State) (c : Instr) (seed len : Word)

theorem sameOperands_advance : SameOperands s (s.advance acc idx p) := ⟨rfl, rfl, rfl, rfl, rfl⟩

@[simp] theorem advance_ph : (s.advance acc idx p).ph = p := rfl
@[simp] theorem advance_idx : (s.advance acc idx p).idx = idx := rfl
@[simp] theorem advance_command : (s.advance acc idx p).command = s.command := rfl
@[simp] theorem advance_mixerOperands : (s.advance acc idx p).mixerOperands c = s.mixerOperands c :=
  (sameOperands_advance acc idx p s).mixerOperands c
@[simp] theorem advance_fullWord (k : Word) : (s.advance acc idx p).fullWord c k = s.fullWord c k :=
  (sameOperands_advance acc idx p s).fullWord c k
@[simp] theorem advance_tailWord : (s.advance acc idx p).tailWord c = s.tailWord c :=
  (sameOperands_advance acc idx p s).tailWord c
@[simp] theorem advance_accWords : (s.advance acc idx p).accWords c seed len = s.accWords c seed len :=
  (sameOperands_advance acc idx p s).accWords c seed len
@[simp] theorem advance_accTail : (s.advance acc idx p).accTail c seed len = s.accTail c seed len :=
  (sameOperands_advance acc idx p s).accTail c seed len

end

/-- A step of the sequencer keeps the invariant if `CUR` and `IDX` fit the new phase and the new `ACC` is the Mixer's
partial result there, given that the old one was in the old phase. -/
theorem State.Inv.advance {s : State} (h : s.Inv) (hb : s.status.busy = true) {c : Instr} (hc : s.command = some c)
    (acc idx : Word) (p : Phase) (hp : p ≠ .idle) (hok : (s.advance acc idx p).phaseOk = true)
    (hacc : ∀ seed len, s.mixerOperands c = some (seed, len) → s.acc = s.expectedAcc c seed len →
      acc = (s.advance acc idx p).expectedAcc c seed len) : (s.advance acc idx p).Inv := by
  obtain ⟨-, -, hout, hw, htracks⟩ := inv_iff.mp h
  refine inv_iff.mpr ⟨by simpa [State.advance, hb] using hp, hok, hout, hw, fun c' seed len _ hc' ho => ?_⟩
  obtain rfl : c = c' := Option.some.inj (hc.symm.trans hc')
  rw [advance_mixerOperands] at ho
  exact hacc seed len ho (htracks c seed len hb hc ho)

/-- The phases of the finaliser (41_mixer.md R131). -/
def Phase.finalises : Phase → Bool
  | .fin1 | .fin2 | .fin3 | .fin4 | .fin5 => true
  | .idle | .start | .words | .tail | .retire => false

/-- In the finaliser `CUR` is only asked to hold a command that runs the Mixer. -/
theorem phaseOk_finalises {s : State} (hp : s.ph.finalises = true) :
    s.phaseOk = true ↔ ∃ c, s.command = some c ∧ (s.mixerOperands c).isSome = true := by
  rw [State.phaseOk]
  revert hp
  cases s.ph <;> cases s.command <;> simp [Phase.finalises]

/-- A step of the finaliser: the command stays one that runs the Mixer, `ACC` takes the next partial result. -/
theorem State.Inv.finStep {s : State} (h : s.Inv) (hb : s.status.busy = true) (f : Word → Word) {p : Phase}
    (hs : s.ph.finalises = true) (hp : p.finalises = true ∨ p = .retire)
    (hf : ∀ c seed len, (s.advance (f s.acc) s.idx p).expectedAcc c seed len = f (s.expectedAcc c seed len)) :
    (s.advance (f s.acc) s.idx p).Inv := by
  obtain ⟨c, hc, ho⟩ := (phaseOk_finalises hs).mp (inv_iff.mp h).2.1
  refine h.advance hb hc _ _ p (by rintro rfl; simp [Phase.finalises] at hp) ?_ fun seed len _ ha => by rw [hf, ← ha]
  obtain hp | rfl := hp
  · exact (phaseOk_finalises hp).mpr ⟨c, hc, by simpa using ho⟩
  · simp [State.phaseOk, hc]

theorem retireStep_outlenOk {s : State} (c : Instr) (h : s.OutlenOk) : (retireStep c s).OutlenOk := by
  cases c with
  | mix => exact h
  | expand => exact .inr rfl
  | hashmix => exact .inr rfl
  | hashmixA => exact .inl rfl
  | seedgen => exact h

theorem retireStep_ib (c : Instr) (s : State) : (retireStep c s).ib = s.ib := by cases c <;> rfl

/-- What WORDS-EXIT finds: the next phase is TAIL exactly when there is a tail word (44_sequencer.md R189, R190). -/
theorem tailWord_isSome_iff {s : State} {c : Instr} {seed len : Word} (ho : s.mixerOperands c = some (seed, len)) :
    (s.tailWord c).isSome = true ↔ tailBytes len ≠ 0 := by
  cases c with
  | mix => cases ho; simp [State.tailWord]
  | hashmix => cases ho; simp [State.tailWord]
  | seedgen => cases ho; simp [State.tailWord]
  | expand => cases ho
  | hashmixA => cases ho

/-- WORD absorbs full word `IDX`, which is below q, so `IDX` does not wrap (44_sequencer.md R188). -/
theorem State.Inv.word {s : State} (h : s.Inv) (hb : s.status.busy = true) {c : Instr} {seed len : Word}
    (hp : s.ph = .words) (hc : s.command = some c) (ho : s.mixerOperands c = some (seed, len))
    (hi : s.idx < fullWords len) : (wordStep c s).Inv := by
  have hlt : s.idx.toNat < (fullWords len).toNat := hi
  have hsucc : (s.idx + 1).toNat = s.idx.toNat + 1 :=
    BitVec.toNat_add_of_lt (by have := (fullWords len).isLt; change s.idx.toNat + 1 < 2 ^ 64; omega)
  rw [show wordStep c s = s.advance (wordRound s.acc (s.fullWord c s.idx)) (s.idx + 1) .words by
    rw [wordStep, State.advance, ← hp]]
  refine h.advance hb hc _ _ _ nofun ?_ fun seed' len' ho' hacc => ?_
  · simp only [State.phaseOk, advance_ph, advance_command, hc, advance_mixerOperands, ho, advance_idx,
      decide_eq_true_eq, BitVec.le_def, hsucc]
    omega
  · rw [State.expectedAcc, hp] at hacc
    rw [hacc]
    simp only [State.expectedAcc, advance_ph, advance_idx, advance_fullWord, hsucc, absorb, BitVec.ofNat_toNat,
      BitVec.setWidth_eq]

/-- With all words absorbed the accumulator is that of TAIL if there is a tail word, else that of FIN1. -/
theorem State.Inv.wordsExit {s : State} (h : s.Inv) (hb : s.status.busy = true) {c : Instr} {seed len : Word}
    (hp : s.ph = .words) (hc : s.command = some c) (ho : s.mixerOperands c = some (seed, len))
    (hi : s.idx = fullWords len) : (wordsExitStep len s).Inv := by
  have hwords : s.expectedAcc c seed len = s.accWords c seed len := by
    simp only [State.expectedAcc, hp, hi, State.accWords]
  have htail := tailWord_isSome_iff ho
  refine h.advance hb hc s.acc s.idx (if tailBytes len ≠ 0 then .tail else .fin1) ?_ ?_ fun seed' len' ho' hacc => ?_
  · split_ifs <;> nofun
  · split_ifs with ht
    · simpa [State.phaseOk, hc] using htail.mpr ht
    · simp [State.phaseOk, hc, ho]
  · obtain ⟨rfl, rfl⟩ : seed = seed' ∧ len = len' := by simpa [ho] using ho'
    rw [hacc, hwords]
    split_ifs with ht
    · simp [State.expectedAcc]
    · have hnone : s.tailWord c = none := by rwa [← Option.not_isSome_iff_eq_none, htail]
      simp [State.expectedAcc, State.accTail, hnone]

/-- Each rule of 44_sequencer.md R187 to R196 keeps the invariant. -/
theorem Sequenced.inv {s t : State} (hs : Sequenced s t) (h : s.Inv) (hb : s.status.busy = true) : t.Inv := by
  cases hs with
  | startMixer c seed len hp hc ho =>
    refine h.advance hb hc (initAcc seed len) 0 .words nofun ?_ fun seed' len' ho' _ => ?_
    · simp [State.phaseOk, hc, ho, BitVec.le_def]
    · obtain ⟨rfl, rfl⟩ : seed = seed' ∧ len = len' := by simpa [ho] using ho'
      rfl
  | startOther c hp hc ho =>
    refine h.advance hb hc s.acc s.idx .retire nofun ?_ fun seed' len' ho' _ => ?_
    · simp [State.phaseOk, hc]
    · cases ho.symm.trans ho'
  | word c seed len hp hc ho hi => exact h.word hb hp hc ho hi
  | wordsExit c seed len hp hc ho hi => exact h.wordsExit hb hp hc ho hi
  | tail c w hp hc ht =>
    have hm : c = .mix ∨ c = .hashmix := by
      by_contra hm
      cases (tailWord_other hm).symm.trans ht
    refine h.advance hb hc (tailRound s.acc w) s.idx .fin1 nofun ?_ fun seed' len' ho' hacc => ?_
    · simp [State.phaseOk, hc, mixerOperands_buffer hm]
    · rw [State.expectedAcc, hp] at hacc
      simp [State.expectedAcc, State.accTail, ht, hacc]
  | fin1 hp => exact h.finStep hb xorshift33 (by rw [hp]; rfl) (.inl rfl) (by simp [State.expectedAcc, hp])
  | fin2 hp => exact h.finStep hb (mul64 · Config.F1) (by rw [hp]; rfl) (.inl rfl) (by simp [State.expectedAcc, hp])
  | fin3 hp => exact h.finStep hb xorshift33 (by rw [hp]; rfl) (.inl rfl) (by simp [State.expectedAcc, hp])
  | fin4 hp => exact h.finStep hb (mul64 · Config.F2) (by rw [hp]; rfl) (.inl rfl) (by simp [State.expectedAcc, hp])
  | fin5 hp => exact h.finStep hb xorshift33 (by rw [hp]; rfl) (.inr rfl) (by simp [State.expectedAcc, hp, fmix])
  | retire c hp hc =>
    exact inv_of_idle rfl rfl (retireStep_outlenOk c h.outlenOk) (by rw [retireStep_ib]; exact h.wf)

/-- Every move keeps the invariant. -/
theorem Moved.inv {s t : State} {m : Move} (hm : Moved s m t) (h : s.Inv) : t.Inv := by
  cases hm with
  | statusWrite v => exact h.update rfl _ _ _
  | busyWrite idx v hi hb => exact h.update rfl _ _ _
  | accepted v i hb hd => exact h.taken i
  | illegal v e hb hd => exact h.update rfl _ _ _
  | idleWrite idx v h0 h1 hb => exact h.writeReg hb idx v
  | read idx => exact h.update rfl _ _ _
  | waitBusy hb => exact h.update rfl _ _ _
  | waitIdle hb => exact h.update rfl _ _ _
  | turn _ hb hs => exact hs.inv h hb
  | quiet hb => exact h
  | stall => exact h
  | reset => exact inv_of_idle rfl rfl (.inl rfl) h.wf
  | buffer a b hr => exact h.storeBuffer hr
  | clock v => exact h.update rfl _ _ _

/-- Settles O34: taking a move off the agenda changes nothing the invariant looks at, and every move keeps it. -/
theorem stepKeepsInvariant : Obligations.StepKeepsInvariant := by
  unfold Obligations.StepKeepsInvariant
  intro s t h hstep
  obtain ⟨m, rest, -, hm⟩ := step_cases hstep
  exact hm.inv (h.update rfl s.timeIn rest s.reads)

/-- Settles O35: reset leaves an idle block with OUTLEN 0 and nothing listed in the buffer. -/
theorem resetMeetsInvariant : Obligations.ResetMeetsInvariant :=
  inv_of_idle rfl rfl (.inl rfl) rfl

end Sys2Proof.Machine
end

section
/-! PROOFS. Bytes and words of 20_memory.md: the bytes of a little-endian value (`MemRead`, the sample as a buffer), and
`MemWrite` byte by byte and as a write of one output register. -/

namespace Sys2Proof.Machine

/-! ### The bytes of a little-endian value (R50, R51, R58) -/

theorem leNat_lt (bs : List Byte) : leNat bs < 2 ^ (8 * bs.length) := by
  induction bs with
  | nil => exact Nat.one_pos
  | cons b bs ih =>
    have hb := b.isLt
    rw [leNat, List.length_cons, Nat.mul_succ, Nat.pow_add]
    omega

theorem leNat_div_mod (bs : List Byte) {j : Nat} (h : j < bs.length) : leNat bs / 256 ^ j % 256 = bs[j].toNat := by
  induction bs generalizing j with
  | nil => cases h
  | cons b bs ih =>
    have hb := b.isLt
    cases j with
    | zero =>
      rw [leNat, Nat.pow_zero, Nat.div_one, List.getElem_cons_zero]
      omega
    | succ j =>
      have htail : (b.toNat + 256 * leNat bs) / 256 = leNat bs := by omega
      rw [leNat, Nat.pow_succ', ← Nat.div_div_eq_div_mul, htail]
      exact ih (Nat.lt_of_succ_lt_succ h)

/-- No byte is lost: the value of at most 8 bytes fits a word. -/
theorem leWord_toNat {bs : List Byte} (h : bs.length ≤ 8) : (leWord bs).toNat = leNat bs := by
  have hlt : leNat bs < 2 ^ 64 := (leNat_lt bs).trans_le (Nat.pow_le_pow_right (by decide) (by omega))
  rw [leWord, BitVec.toNat_ofNat, Nat.mod_eq_of_lt hlt]

theorem byteOf_leWord {bs : List Byte} (h : bs.length ≤ 8) {j : Nat} (hj : j < bs.length) :
    byteOf (leWord bs) j = bs[j] := by
  apply BitVec.eq_of_toNat_eq
  rw [byteOf_toNat, leWord_toNat h, leNat_div_mod bs hj]

theorem leWord_getLsbD_above {bs : List Byte} (h : bs.length ≤ 8) {i : Nat} (hi : 8 * bs.length ≤ i) :
    (leWord bs).getLsbD i = false := by
  rw [BitVec.getLsbD, leWord_toNat h]
  exact Nat.testBit_lt_two_pow ((leNat_lt bs).trans_le (Nat.pow_le_pow_right (by decide) hi))

@[simp] theorem ibBytes_getElem (s : State) (a : Word) {n j : Nat} (h : j < (s.ibBytes a n).length) :
    (s.ibBytes a n)[j] = s.ibByte (a + BitVec.ofNat 64 j) := by
  simp [State.ibBytes]

/-- Settles O46: `MemRead` is the little-endian word of the n bytes read. -/
theorem memReadIsLittleEndian : Obligations.MemReadIsLittleEndian := by
  unfold Obligations.MemReadIsLittleEndian
  intro s a n _ hn
  have hlen : (s.ibBytes a n).length ≤ 8 := by rwa [ibBytes_length]
  constructor
  · intro j hj
    have hj : j < (s.ibBytes a n).length := by rwa [ibBytes_length]
    exact (byteOf_leWord hlen hj).trans (ibBytes_getElem s a hj)
  · intro i hi
    exact leWord_getLsbD_above hlen (by rwa [ibBytes_length])

@[simp] theorem wordBytesOf_getElem (t : Word) {j : Nat} (h : j < (wordBytesOf t).length) : (wordBytesOf t)[j] = byteOf t j := by
  simp [wordBytesOf]

/-- The sample's bytes read back are the sample: the two words agree in every byte. -/
@[simp] theorem leWord_wordBytesOf (t : Word) : leWord (wordBytesOf t) = t := by
  apply byteOf_ext
  intro j hj
  have hj : j < (wordBytesOf t).length := by rwa [wordBytesOf_length]
  rw [byteOf_leWord (wordBytesOf_length t).le hj, wordBytesOf_getElem]

/-- Settles O48: the bytes of the sample are `byteOf` by their definition, and `leWord` inverts them. -/
theorem sampleBytesReadBack : Obligations.SampleBytesReadBack := by
  unfold Obligations.SampleBytesReadBack
  intro t
  refine ⟨wordBytesOf_length t, fun j hj => ?_, leWord_wordBytesOf t⟩
  have hj : j < (wordBytesOf t).length := by rwa [wordBytesOf_length]
  rw [List.getElem?_eq_getElem hj, wordBytesOf_getElem]
  rfl

/-! ### The output byte view (R57, 10_state.md R28) -/

theorem obByte_memWrite (s : State) {a n k : Nat} (v : Word) (ha : a + n ≤ 32) (hk : k < 32) :
    (s.memWrite a n v).obByte k = if a ≤ k ∧ k < a + n then byteOf v (k - a) else s.obByte k := by
  induction n with
  | zero => rw [State.memWrite, if_neg (by omega)]
  | succ n ih =>
    rw [State.memWrite, obByte_setObByte _ _ (by omega) hk, ih (by omega)]
    by_cases hlast : k = a + n
    · rw [if_pos hlast, if_pos (by omega), hlast, Nat.add_sub_cancel_left]
    · rw [if_neg hlast]
      exact if_congr (by omega) rfl rfl

@[simp] theorem setOut_outWord (i : Nat) (s : State) : s.setOut i (s.outWord i) = s := by
  rw [State.setOut, State.outWord]
  split_ifs <;> rfl

@[simp] theorem setOut_setOut (i : Nat) (v w : Word) (s : State) : (s.setOut i v).setOut i w = s.setOut i w := by
  simp only [State.setOut]
  split_ifs <;> rfl

/-- A write inside the eight bytes of `OUT<i>` leaves the state as before but for `OUT<i>`. -/
theorem memWrite_frame (s : State) (i : Nat) {n : Nat} (v : Word) (hn : n ≤ 8) :
    ∃ w, s.memWrite (8 * i) n v = s.setOut i w := by
  induction n with
  | zero => exact ⟨s.outWord i, (setOut_outWord i s).symm⟩
  | succ n ih =>
    obtain ⟨w, hw⟩ := ih (by omega)
    have hi : (8 * i + n) / 8 = i := by omega
    rw [State.memWrite, hw, State.setObByte, hi, setOut_setOut]
    exact ⟨_, rfl⟩

/-- `MemWrite(8*i, 8, v)` is `x[OUT<i>] <- v`: the word it leaves in `OUT<i>` has the bytes of `v`. -/
theorem memWrite_outWord (s : State) {i : Nat} (v : Word) (hi : i < 4) : s.memWrite (8 * i) 8 v = s.setOut i v := by
  obtain ⟨w, hw⟩ := memWrite_frame s i v le_rfl
  have hwv : w = v := byteOf_ext fun j hj => by
    have hbyte := obByte_memWrite s (a := 8 * i) (n := 8) (k := 8 * i + j) v (by omega) (by omega)
    rwa [if_pos (by omega), Nat.add_sub_cancel_left, hw, State.obByte, outWord_setOut _ _ hi (by omega),
      if_pos (by omega), show (8 * i + j) % 8 = j by omega] at hbyte
  rw [hw, hwv]

/-- Settles O47: byte by byte, and as the write of each output register. -/
theorem memWriteIsTheOutRegisterWrite : Obligations.MemWriteIsTheOutRegisterWrite := by
  unfold Obligations.MemWriteIsTheOutRegisterWrite
  refine ⟨fun s a n k v _ ha hk => obByte_memWrite s v ha hk, fun s v => ⟨?_, ?_, ?_, ?_⟩⟩
  · exact memWrite_outWord s (i := 0) v (by decide)
  · exact memWrite_outWord s (i := 1) v (by decide)
  · exact memWrite_outWord s (i := 2) v (by decide)
  · exact memWrite_outWord s (i := 3) v (by decide)

end Sys2Proof.Machine
end

section
/-! PROOFS. The sequencer under a change of the buffer at or beyond LEN (20_memory.md R53): the running command's work is
the same, so each of its steps commutes with the change. -/

namespace Sys2Proof.Machine

/-- The state with another input buffer. -/
def State.withBuffer (m : Memory) (s : State) : State := { s with ib := m }

/-- Every read of the running command ends at or below LEN. -/
theorem sameWork_withBuffer {s : State} {m : Memory} (h : ∀ a, a < s.len → (s.withBuffer m).ibByte a = s.ibByte a) :
    SameWork s (s.withBuffer m) := by
  refine ⟨rfl, rfl, rfl, rfl, rfl, rfl, fun _ => rfl, fun _ _ => tailWord_below rfl h, fun c seed len _ ho k hk => ?_⟩
  cases c with
  | mix => cases ho; exact memRead_below h (fullWord_end hk)
  | hashmix => cases ho; exact memRead_below h (fullWord_end hk)
  | seedgen => rw [fullWord_seedgen, fullWord_seedgen]; rfl
  | expand => cases ho
  | hashmixA => cases ho

theorem Sequenced.withBuffer {s t : State} {m : Memory} (h : Sequenced s t)
    (hm : ∀ a, a < s.len → (s.withBuffer m).ibByte a = s.ibByte a) :
    Sequenced (s.withBuffer m) (t.withBuffer m) := by
  have hwork := sameWork_withBuffer hm
  cases h with
  | startMixer c seed len hp hc ho => exact .startMixer c seed len hp hc ho
  | startOther c hp hc ho => exact .startOther c hp hc ho
  | word c seed len hp hc ho hi =>
    have hstep : (wordStep c s).withBuffer m = wordStep c (s.withBuffer m) := by
      rw [wordStep, wordStep, hwork.idx, hwork.fullWord c seed len hc ho s.idx hi]
      rfl
    rw [hstep]
    exact .word c seed len hp hc ho hi
  | wordsExit c seed len hp hc ho hi => exact .wordsExit c seed len hp hc ho hi
  | tail c w hp hc ht => exact .tail c w hp hc ((hwork.tailWord c hc).trans ht)
  | fin1 hp => exact .fin1 hp
  | fin2 hp => exact .fin2 hp
  | fin3 hp => exact .fin3 hp
  | fin4 hp => exact .fin4 hp
  | fin5 hp => exact .fin5 hp
  | retire c hp hc =>
    have hstep : (retireStep c s).withBuffer m = retireStep c (s.withBuffer m) := by cases c <;> rfl
    rw [hstep]
    exact .retire c hp hc

theorem sequencerStep_withBuffer {s t : State} {m : Memory}
    (hm : ∀ a, a < s.len → (s.withBuffer m).ibByte a = s.ibByte a) (h : sequencerStep s = some t) :
    sequencerStep (s.withBuffer m) = some (t.withBuffer m) := by
  obtain ⟨hb, hs⟩ := sequencerStep_cases h
  rw [sequencerStep_busy (s := s.withBuffer m) hb]
  exact (hs.withBuffer hm).phaseStep_eq

/-- Settles O30: a step on the one buffer is a step on the other; where there is none on the one there is none on the
other, since putting the first buffer back is such a change too. -/
theorem nothingReadAtOrBeyondLength : Obligations.NothingReadAtOrBeyondLength := by
  unfold Obligations.NothingReadAtOrBeyondLength
  intro s m hm
  cases hs : sequencerStep s with
  | some t => exact sequencerStep_withBuffer hm hs
  | none =>
    cases hu : sequencerStep (s.withBuffer m) with
    | none => exact hu
    | some u =>
      have hback := sequencerStep_withBuffer (s := s.withBuffer m) (m := s.ib) (fun a ha => (hm a ha).symm) hu
      cases hs.symm.trans hback

end Sys2Proof.Machine
end

section
/-! PROOFS. Systems of several blocks (20_memory.md R67): a step draws at most one free value, and a step of one block
of a system replaces that block in the list. -/

namespace Sys2Proof.Machine

/-- The sequencer draws no free value. -/
theorem Sequenced.draws {s t : State} (h : Sequenced s t) : t.draws = s.draws := by
  cases h with
  | retire c hp hc => cases c <;> rfl
  | _ => rfl

@[simp] theorem writeReg_draws (idx : BitVec 4) (v : Word) (s : State) : (s.writeReg idx v).draws = s.draws := by
  obtain e | e | e | e := writeReg_cases idx v s <;> rw [e]

/-- Only a SEEDGEN samples the time. -/
theorem taken_draws (i : Instr) (s : State) : (taken i s).draws = s.draws ∨ (taken i s).draws = s.draws + 1 := by
  cases i with
  | seedgen => exact .inr rfl
  | _ => exact .inl rfl

/-- Only the accept of a SEEDGEN and the reset event draw a free value, and they draw one. -/
theorem Moved.draws {s t : State} {m : Move} (h : Moved s m t) : t.draws = s.draws ∨ t.draws = s.draws + 1 := by
  cases h with
  | accepted v i hb hd => exact taken_draws i s
  | reset => exact .inr rfl
  | idleWrite idx v h0 h1 hb => exact .inl (writeReg_draws idx v s)
  | turn _ hb hs => exact .inl hs.draws
  | _ => exact .inl rfl

theorem step_draws {s t : State} (h : step s = .next t) : t.draws = s.draws ∨ t.draws = s.draws + 1 := by
  obtain ⟨m, rest, -, hm⟩ := step_cases h
  exact hm.draws

/-- What a step of block k of a system can do. -/
theorem systemStep_cases {k : Nat} {y z : System} (h : systemStep k y = some (.next z)) :
    ∃ s t, y.blocks[k]? = some s ∧ step { s with draws := y.draws } = .next t ∧ z = ⟨y.blocks.set k t, t.draws⟩ := by
  rw [systemStep] at h
  split at h
  · cases h
  · next s hs =>
    split at h
    · next t ht => cases h; exact ⟨s, t, hs, ht, rfl⟩
    · cases h
    · cases h

/-- Settles O54: the step replaces block k by its own next state and takes over that state's count. -/
theorem instancesShareNothing : Obligations.InstancesShareNothing := by
  unfold Obligations.InstancesShareNothing
  intro y z k j h
  obtain ⟨s, t, hs, ht, rfl⟩ := systemStep_cases h
  obtain ⟨hk, -⟩ := List.getElem?_eq_some_iff.mp hs
  exact ⟨List.length_set, fun hj => List.getElem?_set_ne hj.symm,
    ⟨s, t, hs, ht, List.getElem?_set_self hk, rfl⟩, step_draws ht⟩

end Sys2Proof.Machine
end

section
/-! PROOFS. The decoder of 30_encoding.md: which 64-bit values are command words, and the class each illegal
one falls in. -/

namespace Sys2Proof

/-- The decoder's match is on all 64 bits (R82): it accepts a command's word and no other value for that command. -/
theorem decode_ok_iff (v : Word) (i : Instr) : decode v = .ok i ↔ v = encodeWrite i :=
  ⟨eq_encodeWrite_of_decode, fun h => h ▸ decode_encodeWrite i⟩

/-- The commands' words are the five legal values of R82. -/
theorem exists_eq_encodeWrite_iff (v : Word) :
    (∃ i, v = encodeWrite i) ↔
      v = 0x0000000000000001#64 ∨ v = 0x0000000000000002#64 ∨ v = 0x0000000000000003#64 ∨
      v = 0x000000000000000b#64 ∨ v = 0x0000000000000004#64 := by
  constructor
  · rintro ⟨i, rfl⟩
    cases i <;> decide
  · rintro (h | h | h | h | h)
    · exact ⟨.mix, h⟩
    · exact ⟨.expand, h⟩
    · exact ⟨.hashmix, h⟩
    · exact ⟨.hashmixA, h⟩
    · exact ⟨.seedgen, h⟩

/-- Settles O2: acceptance is equality with the encoder's word, and there are five such words. -/
theorem decodeAcceptsExactlyEncodedWords : Obligations.DecodeAcceptsExactlyEncodedWords := by
  unfold Obligations.DecodeAcceptsExactlyEncodedWords
  refine ⟨decode_ok_iff, fun v => ?_⟩
  simp only [decode_ok_iff]
  exact exists_eq_encodeWrite_iff v

/-- The upper write data is looked at first (log 18). -/
theorem decode_of_upper_ne {v : Word} (h : (fieldsOf v).upper ≠ 0) : decode v = .error .upperData := by
  rw [decode, if_neg (by simpa [Fields.upperOk] using h)]

/-- Then the `zero` field (log 18). -/
theorem decode_of_zero_ne {v : Word} (hu : (fieldsOf v).upper = 0) (hz : (fieldsOf v).zero ≠ 0) :
    decode v = .error .zeroField := by
  rw [decode, if_pos (by simpa [Fields.upperOk] using hu), if_neg (by simpa [Fields.zeroOk] using hz)]

/-- Settles O3: the two classes of reserved bits by the decoder's order, the other three by their listed words. -/
theorem illegalWordsByClass : Obligations.IllegalWordsByClass := by
  unfold Obligations.IllegalWordsByClass
  intro v
  refine ⟨decode_of_upper_ne, decode_of_zero_ne, ?_, ?_, ?_⟩
  · rintro (rfl | rfl) <;> rfl
  · rintro (rfl | rfl | rfl | rfl | rfl | rfl) <;> rfl
  · rintro (rfl | rfl | rfl) <;> rfl

/-- Settles O1: each printed word is the encoder's word of its command, and the decoder reads that back. -/
theorem printedCommandWords : Obligations.PrintedCommandWords := by
  unfold Obligations.PrintedCommandWords
  exact ⟨decode_encodeWrite .mix, decode_encodeWrite .expand, decode_encodeWrite .hashmix,
    decode_encodeWrite .hashmixA, decode_encodeWrite .seedgen, rfl, rfl, rfl, rfl, rfl⟩

end Sys2Proof
end

section
/-! PROOFS. The sequencer's run of a command that runs the Mixer (44_sequencer.md R187 to R197), from START through RETIRE:
each state on the way is the accepted one with `ACC`, `IDX` and `PH` moved on. -/

namespace Sys2Proof.Machine

theorem Sequenced.sequencerStep_eq {s t : State} (h : Sequenced s t) (hb : s.status.busy = true) :
    sequencerStep s = some t := by rw [sequencerStep_busy hb, h.phaseStep_eq]

/-- A step put before a run. -/
theorem Sequenced.run_cons {n : Nat} {s t u : State} (h : Sequenced s t) (hb : s.status.busy = true)
    (hrun : sequencerRun n t = some u) : sequencerRun (n + 1) s = some u := by
  rw [sequencerRun_succ, h.sequencerStep_eq hb]
  exact hrun

theorem sequencerRun_trans {m n : Nat} {s t u : State} (h : sequencerRun m s = some t)
    (h' : sequencerRun n t = some u) : sequencerRun (m + n) s = some u := by rw [sequencerRun_add, h]; exact h'

section
variable {s : State} {c : Instr} {seed len : Word} (hb : s.status.busy = true) (hc : s.command = some c)
include hb hc

/-- FIN1 to FIN5, then RETIRE (R191 to R196). -/
theorem sequencerRun_finaliser (a k : Word) :
    sequencerRun 6 (s.advance a k .fin1) = some (retireStep c (s.advance (fmix a) k .retire)) := by
  have hfin1 : Sequenced (s.advance a k .fin1) (s.advance (xorshift33 a) k .fin2) := .fin1 rfl
  have hfin2 (a : Word) : Sequenced (s.advance a k .fin2) (s.advance (mul64 a Config.F1) k .fin3) := .fin2 rfl
  have hfin3 (a : Word) : Sequenced (s.advance a k .fin3) (s.advance (xorshift33 a) k .fin4) := .fin3 rfl
  have hfin4 (a : Word) : Sequenced (s.advance a k .fin4) (s.advance (mul64 a Config.F2) k .fin5) := .fin4 rfl
  have hfin5 (a : Word) : Sequenced (s.advance a k .fin5) (s.advance (xorshift33 a) k .retire) := .fin5 rfl
  have hretire (a : Word) : Sequenced (s.advance a k .retire) (retireStep c (s.advance a k .retire)) := .retire c rfl hc
  exact hfin1.run_cons hb ((hfin2 _).run_cons hb ((hfin3 _).run_cons hb
    ((hfin4 _).run_cons hb ((hfin5 _).run_cons hb ((hretire _).run_cons hb rfl)))))

variable (ho : s.mixerOperands c = some (seed, len))
include ho

/-- WORD n times, n up to q (R188): the first n full words are absorbed. -/
theorem sequencerRun_words (a : Word) {n : Nat} (hn : n ≤ (fullWords len).toNat) :
    sequencerRun n (s.advance a 0 .words) =
      some (s.advance (absorb (fun k => s.fullWord c (BitVec.ofNat 64 k)) n a) (BitVec.ofNat 64 n) .words) := by
  induction n with
  | zero => rfl
  | succ n ih =>
    refine sequencerRun_trans (ih (by omega)) ?_
    have hlt : BitVec.ofNat 64 n < fullWords len := by
      have := (fullWords len).isLt
      rw [BitVec.lt_def, BitVec.toNat_ofNat, Nat.mod_eq_of_lt (by omega)]
      omega
    rw [BitVec.ofNat_add]
    exact Sequenced.run_cons (.word c seed len rfl hc ho hlt) hb rfl

/-- WORDS-EXIT and the tail decision (R189, R190): the tail round is made exactly when there is a tail. -/
theorem sequencerRun_wordsExit :
    sequencerRun (1 + if tailBytes len = 0 then 0 else 1)
        (s.advance (s.accWords c seed len) (fullWords len) .words) =
      some (s.advance (s.accTail c seed len) (fullWords len) .fin1) := by
  have hexit : Sequenced (s.advance (s.accWords c seed len) (fullWords len) .words)
      (s.advance (s.accWords c seed len) (fullWords len) (if tailBytes len ≠ 0 then .tail else .fin1)) :=
    .wordsExit c seed len rfl hc ho rfl
  rw [Nat.add_comm]
  refine hexit.run_cons hb ?_
  have htail := tailWord_isSome_iff ho
  rw [State.accTail]
  cases hw : s.tailWord c with
  | none =>
    have h0 : tailBytes len = 0 := by simpa [hw] using htail
    rw [if_pos h0, if_neg (not_not.mpr h0)]
    rfl
  | some w =>
    have h0 : tailBytes len ≠ 0 := by simpa [hw] using htail
    rw [if_neg h0, if_pos h0]
    exact Sequenced.run_cons (.tail c w rfl hc hw) hb rfl

/-- The whole run, of the length of R197: RETIRE finds the finalised accumulator of all words and the tail. -/
theorem sequencerRun_mixer (hp : s.ph = .start) :
    sequencerRun ((fullWords len).toNat + 8 + if tailBytes len = 0 then 0 else 1) s =
      some (retireStep c (s.advance (fmix (s.accTail c seed len)) (fullWords len) .retire)) := by
  have hstart : Sequenced s (s.advance (initAcc seed len) 0 .words) := .startMixer c seed len hp hc ho
  have hwords := sequencerRun_words hb hc ho (initAcc seed len) le_rfl
  rw [BitVec.ofNat_toNat, BitVec.setWidth_eq] at hwords
  have hfin := sequencerRun_trans hwords
    (sequencerRun_trans (sequencerRun_wordsExit hb hc ho) (sequencerRun_finaliser hb hc _ _))
  rw [← hstart.run_cons hb hfin]
  congr 1
  omega

end

/-- MIX and HASHMIX, accepted, retire with the message's digest in `ACC` (41_mixer.md R134,
42_digest_expander.md R155). -/
theorem sequencerRun_accept_buffer {c : Instr} (h : c = .mix ∨ c = .hashmix) (s : State) :
    sequencerRun (referenceSteps s c) (s.accept c) =
      some (retireStep c ((s.accept c).advance (mix s.message s.seed) (fullWords s.len) .retire)) := by
  have hrun := sequencerRun_mixer (s := s.accept c) rfl (command_accept c s) (mixerOperands_buffer h) rfl
  rw [fmix_accTail_buffer h] at hrun
  have hsteps : referenceSteps s c = (fullWords s.len).toNat + 8 + if tailBytes s.len = 0 then 0 else 1 := by
    rcases h with rfl | rfl <;> rfl
  rw [hsteps]
  exact hrun

/-- SEEDGEN, accepted, retires with `seedgen` of `TS` in `ACC` (43_time_seed_generator.md R174). -/
theorem sequencerRun_accept_seedgen (s : State) :
    sequencerRun (referenceSteps s .seedgen) (s.accept .seedgen) =
      some (retireStep .seedgen ((s.accept .seedgen).advance (seedgen s.ts) (fullWords 8) .retire)) := by
  have hrun := sequencerRun_mixer (s := s.accept .seedgen) rfl (command_accept .seedgen s) rfl rfl
  rw [fmix_accTail_seedgen] at hrun
  exact hrun

end Sys2Proof.Machine
end

section
/-! PROOFS. Host scripts (30_encoding.md R89, R90): what the machine reaches by single moves, the polling loop `wait` as a
run of the sequencer, and the pseudo-instructions and the directive `.time` put together from them. -/

namespace Sys2Proof.Machine

/-! ### What the machine reaches -/

/-- Some number of steps lead from the one state to the other. -/
def State.Reaches (s t : State) : Prop := ∃ k, Host.Core.run core k s = .next t

theorem State.Reaches.refl (s : State) : s.Reaches s := ⟨0, rfl⟩

theorem State.Reaches.trans {s t u : State} (h : s.Reaches t) (h' : t.Reaches u) : s.Reaches u := by
  obtain ⟨m, hm⟩ := h
  obtain ⟨n, hn⟩ := h'
  exact ⟨m + n, (core_run_add m n hm).trans hn⟩

/-- The state with another agenda and other recorded reads: the host's side of it (10_state.md R34; log 1, 17). -/
def State.withHost (agenda : List Move) (reads : List (BitVec 4 × Word)) (s : State) : State :=
  { s with agenda := agenda, reads := reads }

/-- The agenda's next move is made. -/
theorem Moved.reaches {s t : State} {m : Move} {rest : List Move} {r : List (BitVec 4 × Word)}
    (h : Moved (s.withHost rest r) m t) : (s.withHost (m :: rest) r).Reaches t :=
  ⟨1, core_run_succ 0 (Moved.step_eq (.inr rfl) h)⟩

/-! ### The sequencer and the host's side -/

/-- No step of the sequencer looks at the agenda or at the reads. -/
theorem Sequenced.withHost {s t : State} (h : Sequenced s t) (moves : List Move) (r : List (BitVec 4 × Word)) :
    Sequenced (s.withHost moves r) (t.withHost moves r) := by
  cases h with
  | startMixer c seed len hp hc ho => exact .startMixer c seed len hp hc ho
  | startOther c hp hc ho => exact .startOther c hp hc ho
  | word c seed len hp hc ho hi => exact .word c seed len hp hc ho hi
  | wordsExit c seed len hp hc ho hi => exact .wordsExit c seed len hp hc ho hi
  | tail c w hp hc ht => exact .tail c w hp hc ht
  | fin1 hp => exact .fin1 hp
  | fin2 hp => exact .fin2 hp
  | fin3 hp => exact .fin3 hp
  | fin4 hp => exact .fin4 hp
  | fin5 hp => exact .fin5 hp
  | retire c hp hc =>
    have hstep : (retireStep c s).withHost moves r = retireStep c (s.withHost moves r) := by cases c <;> rfl
    rw [hstep]
    exact .retire c hp hc

/-- `wait` runs the sequencer until the block is idle, and records its reads of STATUS (R90; log 16). -/
theorem reaches_wait {n : Nat} {s t : State} (h : sequencerRun n s = some t) (ht : t.status.busy = false)
    (rest : List Move) (r : List (BitVec 4 × Word)) :
    ∃ r', (s.withHost (.wait :: rest) r).Reaches (t.withHost rest r') := by
  induction n generalizing s r with
  | zero =>
    obtain rfl : s = t := Option.some.inj h
    exact ⟨_, Moved.reaches (.waitIdle ht)⟩
  | succ n ih =>
    rw [sequencerRun_succ] at h
    obtain ⟨u, hu, hrun⟩ := Option.bind_eq_some_iff.mp h
    obtain ⟨hb, hs⟩ := sequencerStep_cases hu
    obtain ⟨r', hr'⟩ := ih hrun ((0x1, s.readReg 0x1) :: r)
    have hpoll : (s.withHost (.wait :: rest) r).Reaches
        (s.withHost (.sequencer :: .wait :: rest) ((0x1, s.readReg 0x1) :: r)) := Moved.reaches (.waitBusy hb)
    have hturn : (s.withHost (.sequencer :: .wait :: rest) ((0x1, s.readReg 0x1) :: r)).Reaches
        (u.withHost (.wait :: rest) ((0x1, s.readReg 0x1) :: r)) := Moved.reaches (.turn _ hb (hs.withHost _ _))
    exact ⟨r', hpoll.trans (hturn.trans hr')⟩

/-- A row of reads records the registers' values, newest first (10_state.md R34). -/
theorem reaches_reads (idxs : List (BitVec 4)) (s : State) (r : List (BitVec 4 × Word)) :
    (s.withHost (idxs.map .read) r).Reaches
      (s.withHost [] ((idxs.map fun i => (i, s.readReg i)).reverse ++ r)) := by
  induction idxs generalizing r with
  | nil => exact .refl _
  | cons i idxs ih =>
    have hread : (s.withHost (.read i :: idxs.map .read) r).Reaches
        (s.withHost (idxs.map .read) ((i, s.readReg i) :: r)) := Moved.reaches (.read i)
    rw [List.map_cons, List.map_cons, List.reverse_cons, List.append_assoc]
    exact hread.trans (ih _)

/-- A command issued, waited for and read out: the common shape of the pseudo-instructions of R90. -/
theorem reaches_issued {n : Nat} {s t : State} {i : Instr} (hb : s.status.busy = false)
    (hrun : sequencerRun n (taken i s) = some t) (ht : t.status.busy = false) (idxs : List (BitVec 4)) :
    ∃ r, (s.withHost (.write 0x0 (encodeWrite i) :: .wait :: idxs.map .read) s.reads).Reaches
      (t.withHost [] ((idxs.map fun j => (j, t.readReg j)).reverse ++ r)) := by
  obtain ⟨r, hwait⟩ := reaches_wait hrun ht (idxs.map .read) s.reads
  have htaken : taken i (s.withHost (.wait :: idxs.map .read) s.reads) =
      (taken i s).withHost (.wait :: idxs.map .read) s.reads := by cases i <;> rfl
  have haccept : (s.withHost (.write 0x0 (encodeWrite i) :: .wait :: idxs.map .read) s.reads).Reaches
      ((taken i s).withHost (.wait :: idxs.map .read) s.reads) :=
    htaken ▸ Moved.reaches (.accepted _ i hb (decode_encodeWrite i))
  exact ⟨r, haccept.trans (hwait.trans (reaches_reads idxs t r))⟩

/-- The writes of SEED and LEN to an idle block (10_state.md R35). -/
theorem reaches_operands {s : State} (hb : s.status.busy = false) (seed len : Word) (rest : List Move) :
    (s.withHost (.write 0x2 seed :: .write 0x3 len :: rest) s.reads).Reaches
      (State.withHost rest s.reads { s with seed := seed, len := len }) := by
  have hseed : (s.withHost (.write 0x2 seed :: .write 0x3 len :: rest) s.reads).Reaches
      (State.withHost (.write 0x3 len :: rest) s.reads { s with seed := seed }) :=
    Moved.reaches (.idleWrite 0x2 seed (by decide) (by decide) hb)
  have hlen : (State.withHost (.write 0x3 len :: rest) s.reads { s with seed := seed }).Reaches
      (State.withHost rest s.reads { s with seed := seed, len := len }) :=
    Moved.reaches (.idleWrite 0x3 len (by decide) (by decide) hb)
  exact hseed.trans hlen

/-- One statement put on an empty agenda. -/
theorem withScript_of_agenda_nil {s : State} (ha : s.agenda = []) (x : Stmt) :
    s.withScript [x] = s.withHost (stmtMoves x) s.reads := by
  rw [State.withScript, ha, List.flatMap_singleton, List.append_nil]
  rfl

/-! ### The statements -/

/-- The output registers after the retirement of a HASHMIX whose digest is d, newest read first. -/
theorem reads_retireStep_hashmix (s : State) (d k : Word) :
    (([0x6, 0x8, 0x9, 0xA, 0xB] : List (BitVec 4)).map fun j =>
        (j, (retireStep .hashmix (s.advance d k .retire)).readReg j)).reverse =
      [(0xB, add64 d (mul64 3 Config.G)), (0xA, add64 d (mul64 2 Config.G)), (0x9, add64 d (mul64 1 Config.G)),
        (0x8, add64 d (mul64 0 Config.G)), (0x6, 32)] := rfl

/-- HASHMIX issued, waited for and read out: the expansion of the message's digest (42_digest_expander.md R155). -/
theorem hashmix_readOut {s : State} {d : Word} (hb : s.status.busy = false) (hd : d = mix s.message s.seed) :
    ∃ t, (s.withHost (.write 0x0 (encodeWrite .hashmix) :: .wait ::
        ([0x6, 0x8, 0x9, 0xA, 0xB] : List (BitVec 4)).map .read) s.reads).Reaches t ∧
      t.status.busy = false ∧ t.agenda = [] ∧
      t.reads.take 5 = [(0xB, add64 d (mul64 3 Config.G)), (0xA, add64 d (mul64 2 Config.G)),
        (0x9, add64 d (mul64 1 Config.G)), (0x8, add64 d (mul64 0 Config.G)), (0x6, 32)] := by
  have hrun := sequencerRun_accept_buffer (.inr rfl) s
  rw [← hd] at hrun
  obtain ⟨r, hreach⟩ := reaches_issued (i := .hashmix) hb hrun rfl [0x6, 0x8, 0x9, 0xA, 0xB]
  rw [reads_retireStep_hashmix] at hreach
  exact ⟨_, hreach, rfl, rfl, rfl⟩

/-- Settles O55: the operands written, then HASHMIX issued, waited for and read out. -/
theorem customHashMixReturnsTheExpansion : Obligations.CustomHashMixReturnsTheExpansion := by
  unfold Obligations.CustomHashMixReturnsTheExpansion
  intro s fp n d hb ha hd
  obtain ⟨t, hread, hidle, hagenda, htake⟩ :=
    hashmix_readOut (s := { s with seed := fingerprintBits fp, len := n }) hb hd
  obtain ⟨k, hk⟩ := (reaches_operands hb (fingerprintBits fp) n _).trans hread
  rw [withScript_of_agenda_nil ha]
  exact ⟨k, t, hk, hidle, hagenda, htake⟩

/-- Settles O56: SEEDGEN issued, waited for and read out; the sample is `TS` of the accepted state. -/
theorem getHardwareSeedReturnsTheSeed : Obligations.GetHardwareSeedReturnsTheSeed := by
  unfold Obligations.GetHardwareSeedReturnsTheSeed
  intro s hb ha
  obtain ⟨r, k, hk⟩ := reaches_issued (i := .seedgen) hb (sequencerRun_accept_seedgen s.sampleTime) rfl [0x4]
  rw [withScript_of_agenda_nil ha]
  exact ⟨k, _, hk, rfl, rfl, rfl, rfl⟩

/-- Settles O57: the announcement's move, then the accept of a SEEDGEN, which samples the announced value. -/
theorem announcedTimeIsTheNextSample : Obligations.AnnouncedTimeIsTheNextSample := by
  unfold Obligations.AnnouncedTimeIsTheNextSample
  intro s t rest
  refine ⟨fun ha => Moved.step_eq (.inr ha) (.clock t), fun ha hb => ?_⟩
  have hclock := Moved.step_eq (.inr ha) (.clock t)
  have haccept := Moved.step_eq (s := { s with agenda := .write 0x0 (encodeWrite .seedgen) :: rest, timeIn := some t })
    (.inr rfl) (.accepted _ .seedgen hb (decode_encodeWrite .seedgen))
  refine ⟨_, (core_run_succ 1 hclock).trans (core_run_succ 0 haccept), rfl, rfl, command_accept _ _, rfl⟩

end Sys2Proof.Machine
end

section
/-! PROOFS. The arithmetic primitives bit by bit (40_arith_xor_tree.md R101 to R106), and each step of the Mixer as a
bijection of the accumulator (R109). -/

namespace Sys2Proof.Machine

/-! ### The bits -/

@[simp] theorem getLsbD_xor64 (a b : Word) (i : Nat) : (xor64 a b).getLsbD i = (a.getLsbD i ^^ b.getLsbD i) :=
  BitVec.getLsbD_xor

@[simp] theorem getLsbD_shr64 (a : Word) (n i : Nat) : (shr64 a n).getLsbD i = a.getLsbD (i + n) := by
  rw [shr64, BitVec.getLsbD_ushiftRight, Nat.add_comm]

/-- The rotation of R103 is the library's. -/
theorem rotl64_eq_rotateLeft (a : Word) {n : Nat} (hn : n ≤ 63) : rotl64 a n = a.rotateLeft n := by
  rw [BitVec.rotateLeft_def, Nat.mod_eq_of_lt (by omega), rotl64]

/-- The n top bits come round to the bottom, the others move up by n. -/
theorem getLsbD_rotl64 (a : Word) {n i : Nat} (hn : n ≤ 63) (hi : i ≤ 63) :
    (rotl64 a n).getLsbD ((i + n) % 64) = a.getLsbD i := by
  rw [rotl64_eq_rotateLeft a hn, BitVec.getLsbD_rotateLeft_of_le (by omega)]
  by_cases hwrap : i + n < 64
  · have hpos : (i + n) % 64 = i + n := Nat.mod_eq_of_lt hwrap
    simp [hpos, hwrap]
  · have hpos : (i + n) % 64 = i + n - 64 := by omega
    have hback : 64 - n + (i + n - 64) = i := by omega
    have hlow : i + n - 64 < n := by omega
    simp [hpos, hlow, hback]

/-- Settles O40: the primitives' bits are those of the library's xor, logical shift and rotation. -/
theorem primitivesBitByBit : Obligations.PrimitivesBitByBit := by
  unfold Obligations.PrimitivesBitByBit
  refine ⟨getLsbD_xor64, fun a n i _ _ => ?_, fun a n i _ hn hi => getLsbD_rotl64 a hn hi⟩
  rw [getLsbD_shr64]
  split
  · rfl
  · exact BitVec.getLsbD_of_ge a (i + n) (by omega)

/-! ### The xor-shift -/

/-- R106 for every bit: above bit 30 the second operand is 0. -/
theorem getLsbD_xorshift33 (a : Word) (i : Nat) :
    (xorshift33 a).getLsbD i = (a.getLsbD i ^^ a.getLsbD (i + 33)) := by
  rw [xorshift33, getLsbD_xor64, getLsbD_shr64, Config.shr]

theorem getLsbD_xorshift33_of_ge (a : Word) {i : Nat} (hi : 31 ≤ i) : (xorshift33 a).getLsbD i = a.getLsbD i := by
  rw [getLsbD_xorshift33, BitVec.getLsbD_of_ge a (i + 33) (by omega), Bool.xor_false]

theorem xorshift33_of_lt {a : Word} (ha : a.toNat < 2 ^ 33) : xorshift33 a = a := by
  refine BitVec.eq_of_getLsbD_eq fun i _ => ?_
  have habove : a.getLsbD (i + 33) = false :=
    Nat.testBit_lt_two_pow (ha.trans_le (Nat.pow_le_pow_right (by decide) (by omega)))
  rw [getLsbD_xorshift33, habove, Bool.xor_false]

/-- Bit i + 33 is taken in twice, and bit i + 66 does not exist. -/
theorem xorshift33_involutive : Function.Involutive xorshift33 := fun a => by
  refine BitVec.eq_of_getLsbD_eq fun i _ => ?_
  have habove : (xorshift33 a).getLsbD (i + 33) = a.getLsbD (i + 33) := getLsbD_xorshift33_of_ge a (by omega)
  rw [getLsbD_xorshift33, habove, getLsbD_xorshift33, Bool.xor_assoc, Bool.xor_self, Bool.xor_false]

/-- Settles O41: each clause is the bits' equation of R106 in its range. -/
theorem xorshiftIsItsOwnInverse : Obligations.XorshiftIsItsOwnInverse := by
  unfold Obligations.XorshiftIsItsOwnInverse
  exact fun a => ⟨fun _ hi _ => getLsbD_xorshift33_of_ge a hi, fun i _ => getLsbD_xorshift33 a i,
    xorshift33_of_lt (by decide), xorshift33_of_lt, xorshift33_involutive a⟩

/-! ### Bijections of the accumulator -/

theorem xor64_bijective (w : Word) : Function.Bijective fun a => xor64 a w :=
  Function.Involutive.bijective fun a => by rw [xor64, xor64, BitVec.xor_assoc, BitVec.xor_self, BitVec.xor_zero]

/-- Every bit of the operand stands somewhere in the rotated value. -/
theorem rotl64_bijective {n : Nat} (hn : n ≤ 63) : Function.Bijective fun a => rotl64 a n := by
  refine Finite.injective_iff_bijective.mp fun a b h => BitVec.eq_of_getLsbD_eq fun i hi => ?_
  have hbit := congrArg (BitVec.getLsbD · ((i + n) % 64)) h
  simpa only [getLsbD_rotl64 _ hn (Nat.le_of_lt_succ hi)] using hbit

/-- An odd value is prime to 2^64. -/
theorem isUnit_of_odd {k : Word} (hk : k.getLsbD 0 = true) : IsUnit k := by
  have hodd : k.toNat % 2 = 1 := by simpa [BitVec.getLsbD, Nat.testBit_zero] using hk
  have hprime : Nat.Coprime k.toNat (2 ^ 64) :=
    Nat.Coprime.pow_right 64 (Nat.coprime_two_right.mpr (Nat.odd_iff.mpr hodd))
  obtain ⟨m, -, hm⟩ := Nat.exists_mul_mod_eq_one_of_coprime hprime (by decide)
  refine IsUnit.of_mul_eq_one (BitVec.ofNat 64 m) (BitVec.eq_of_toNat_eq ?_)
  rw [BitVec.toNat_mul, BitVec.toNat_ofNat, Nat.mul_mod_mod]
  exact hm

theorem mul64_bijective {k : Word} (hk : k.getLsbD 0 = true) : Function.Bijective fun a => mul64 a k :=
  IsUnit.isUnit_iff_mulRight_bijective.mp (isUnit_of_odd hk)

theorem xorshift33_bijective : Function.Bijective xorshift33 := xorshift33_involutive.bijective

/-- Settles O42: the xor and the xor-shift are involutions, the rotation permutes the bits, an odd factor is a unit. -/
theorem mixerStepsAreBijections : Obligations.MixerStepsAreBijections := by
  unfold Obligations.MixerStepsAreBijections
  exact ⟨xor64_bijective, fun _ _ hn => rotl64_bijective hn, fun _ hk => mul64_bijective hk, xorshift33_bijective,
    by decide, by decide, by decide, by decide⟩

end Sys2Proof.Machine
end

section
/-! PROOFS. The Mixer (41_mixer.md): MIX from accept to retirement (R134), and what `mix` is as a function of the seed: a
bijection for fixed data (R136), the finaliser on the empty input (R133), a function of `seed ^ w` on one word (R137 b). -/

namespace Sys2Proof.Machine

/-! ### The command -/

theorem status_busy_false {s : State} (hb : s.status.busy = false) : { s.status with busy := false } = s.status := by
  rw [← hb]

/-- RETIRE of a MIX accepted from the idle state s, with digest d in `ACC`: DIGEST and hidden registers (44_sequencer.md
R196). -/
theorem retireStep_mix_accept {s : State} (hb : s.status.busy = false) (d k : Word) :
    retireStep .mix ((s.accept .mix).advance d k .retire) =
      { s with digest := d, ph := .idle, cur := 0x01#8, acc := d, idx := k } := by
  conv_rhs => rw [← status_busy_false hb]
  rfl

/-- Settles O6: the run of the accepted state retires with the message's digest in `ACC`. -/
theorem mixAcceptsAndCommitsDigest : Obligations.MixAcceptsAndCommitsDigest := by
  unfold Obligations.MixAcceptsAndCommitsDigest
  intro s hb
  refine ⟨s.accept .mix, exec_idle hb, rfl, mix s.message s.seed, fullWords s.len, ?_⟩
  rw [sequencerRun_accept_buffer (.inl rfl), retireStep_mix_accept hb]

/-! ### The seed -/

theorem initAcc_bijective (n : Word) : Function.Bijective fun seed => initAcc seed n := xor64_bijective _

theorem wordRound_bijective (w : Word) : Function.Bijective fun a => wordRound a w :=
  (mul64_bijective (by decide)).comp ((rotl64_bijective (by decide)).comp (xor64_bijective w))

theorem tailRound_bijective (t : Word) : Function.Bijective fun a => tailRound a t :=
  (mul64_bijective (by decide)).comp ((rotl64_bijective (by decide)).comp (xor64_bijective t))

theorem fmix_bijective : Function.Bijective fmix :=
  xorshift33_bijective.comp ((mul64_bijective (by decide)).comp
    (xorshift33_bijective.comp ((mul64_bijective (by decide)).comp xorshift33_bijective)))

theorem absorb_bijective (w : Nat → Word) (k : Nat) : Function.Bijective (absorb w k) := by
  induction k with
  | zero => exact Function.bijective_id
  | succ k ih => exact (wordRound_bijective (w k)).comp ih

theorem absorbTail_bijective (data : List Byte) : Function.Bijective (absorbTail data) := by
  by_cases haligned : data.length % 8 = 0
  · have hskip : absorbTail data = id := funext fun _ => if_pos haligned
    rw [hskip]
    exact Function.bijective_id
  · have hround : absorbTail data = fun a => tailRound a (leWord (data.drop (8 * (data.length / 8)))) :=
      funext fun _ => if_neg haligned
    rw [hround]
    exact tailRound_bijective _

/-- Settles O43: the seed enters by `initAcc` alone, and every later step is a bijection of the accumulator. -/
theorem mixIsBijectiveInTheSeed : Obligations.MixIsBijectiveInTheSeed := by
  unfold Obligations.MixIsBijectiveInTheSeed
  exact fun data => fmix_bijective.comp ((absorbTail_bijective data).comp
    ((absorb_bijective (dataWord data) _).comp (initAcc_bijective _)))

/-! ### The empty input and one full word -/

theorem initAcc_zero (seed : Word) : initAcc seed 0 = seed := by simp [initAcc, xor64, mul64]

/-- No word and no tail: only the finaliser acts. -/
theorem mix_nil (seed : Word) : mix [] seed = fmix seed := by
  have htail : ∀ a, absorbTail [] a = a := fun _ => if_pos rfl
  have hinit : initAcc seed (BitVec.ofNat 64 ([] : List Byte).length) = seed := initAcc_zero seed
  rw [mix, htail, hinit]
  rfl

/-- Settles O44: the general equation, and its value for the three printed seeds. -/
theorem emptyInputIsFinalisedSeed : Obligations.EmptyInputIsFinalisedSeed := by
  unfold Obligations.EmptyInputIsFinalisedSeed
  exact ⟨mix_nil, (mix_nil 0).trans (by decide), (mix_nil 1).trans (by decide), (mix_nil _).trans (by decide)⟩

/-- Eight bytes are one word round and no tail (R125). -/
theorem mix_of_length_eq_eight {data : List Byte} (h : data.length = 8) (seed : Word) :
    mix data seed = fmix (wordRound (initAcc seed 8) (leWord data)) := by
  have htail : ∀ a, absorbTail data a = a := fun _ => if_pos (by rw [h])
  have hword : dataWord data 0 = leWord data := by
    rw [dataWord, Nat.mul_zero, List.drop_zero, List.take_of_length_le h.le]
  rw [mix, htail, h, ← hword]
  rfl

/-- The first word round sees seed and word only through their xor (R137 b). -/
theorem wordRound_initAcc (seed n w : Word) :
    wordRound (initAcc seed n) w = wordRound (xor64 seed w) (mul64 n Config.G) := by
  have hswap : xor64 (initAcc seed n) w = xor64 (xor64 seed w) (mul64 n Config.G) := by
    simp only [initAcc, xor64]
    ac_rfl
  rw [wordRound, wordRound, hswap]

/-- Settles O45: on eight bytes the digest is a function of the seed's xor with the one word. -/
theorem equalFirstXorCollides : Obligations.EqualFirstXorCollides := by
  unfold Obligations.EqualFirstXorCollides
  intro d1 d2 s1 s2 h1 h2 hxor
  rw [mix_of_length_eq_eight h1, mix_of_length_eq_eight h2, wordRound_initAcc s1, wordRound_initAcc s2, hxor]

end Sys2Proof.Machine
end

section
/-! PROOFS. The DigestExpander (42_digest_expander.md): EXPAND, HASHMIX and HASHMIX.A from accept to retirement (R154 to
R156), MIX then EXPAND against HASHMIX (R158), and what `expand` is as a function of the digest (R152, R153). -/

namespace Sys2Proof.Machine

/-! ### The commands -/

/-- A command that does not run the Mixer goes from START to RETIRE with `ACC` and `IDX` as they were
(44_sequencer.md R187, R196). -/
theorem sequencerRun_accept_other {c : Instr} (s : State) (ho : (s.accept c).mixerOperands c = none) :
    sequencerRun 2 (s.accept c) = some (retireStep c ((s.accept c).advance s.acc s.idx .retire)) := by
  have hstart : Sequenced (s.accept c) ((s.accept c).advance s.acc s.idx .retire) :=
    .startOther c rfl (command_accept c s) ho
  have hretire : Sequenced ((s.accept c).advance s.acc s.idx .retire)
      (retireStep c ((s.accept c).advance s.acc s.idx .retire)) := .retire c rfl (command_accept c s)
  exact hstart.run_cons rfl (hretire.run_cons rfl rfl)

/-- RETIRE of a command accepted from the idle state s, with d in `ACC`: STATUS is as before the accept, and besides what
RETIRE commits only hidden registers differ (44_sequencer.md R196). -/
theorem retireStep_accept {s : State} (hb : s.status.busy = false) (c : Instr) (d k : Word) :
    retireStep c ((s.accept c).advance d k .retire) =
      { commit c { s with acc := d } with status := s.status, ph := .idle, cur := encode c, idx := k } := by
  conv_rhs => rw [← status_busy_false hb]
  cases c <;> rfl

/-- Settles O7: RETIRE expands DIGEST, as it stood at accept. -/
theorem expandAcceptsAndCommitsWords : Obligations.ExpandAcceptsAndCommitsWords := by
  unfold Obligations.ExpandAcceptsAndCommitsWords
  refine ⟨rfl, fun s hb => ⟨s.accept .expand, exec_idle hb, rfl, ?_⟩⟩
  rw [referenceSteps, sequencerRun_accept_other s rfl, retireStep_accept hb]
  rfl

/-- Settles O8: the Mixer's run leaves the message's digest in `ACC`, and RETIRE commits it and its expansion,
whatever its value; a variable stands for it, so that the kernel does not compute `mix`. -/
theorem hashmixAcceptsAndCommitsExpansion : Obligations.HashmixAcceptsAndCommitsExpansion := by
  unfold Obligations.HashmixAcceptsAndCommitsExpansion
  refine ⟨rfl, fun s hb => ⟨s.accept .hashmix, exec_idle hb, rfl, ?_⟩⟩
  obtain ⟨d, hd⟩ : ∃ d, d = mix s.message s.seed := ⟨_, rfl⟩
  refine ⟨d, fullWords s.len, d, hd, ?_⟩
  rw [sequencerRun_accept_buffer (.inr rfl), ← hd, retireStep_accept hb]
  rfl

/-- Settles O9: no Mixer step stands between the accept and RETIRE, which writes OUTLEN. -/
theorem absentHashmixAcceptsAndCommitsNoBytes : Obligations.AbsentHashmixAcceptsAndCommitsNoBytes := by
  unfold Obligations.AbsentHashmixAcceptsAndCommitsNoBytes
  refine ⟨rfl, fun s hb => ⟨s.accept .hashmixA, exec_idle hb, rfl, ?_⟩⟩
  rw [referenceSteps, sequencerRun_accept_other s rfl, retireStep_accept hb]
  rfl

/-! ### MIX then EXPAND -/

/-- The uninterrupted run of an accepted command leaves in the result registers what the command's rule says (41_mixer.md
R134, 42_digest_expander.md R154 to R156, 43_time_seed_generator.md R174). -/
theorem results_sequencerRun_taken (i : Instr) (s : State) :
    (sequencerRun (referenceSteps s i) (taken i s)).map State.results = some (s.afterCommand i).results := by
  cases i with
  | mix =>
    rw [taken, sequencerRun_accept_buffer (.inl rfl), Option.map_some, results_retireStep, results_after_mix]
    rfl
  | expand =>
    rw [taken, referenceSteps, sequencerRun_accept_other s rfl, Option.map_some, results_retireStep, results_after_expand]
    rfl
  | hashmix =>
    rw [taken, sequencerRun_accept_buffer (.inr rfl), Option.map_some, results_retireStep, results_after_hashmix]
    rfl
  | hashmixA =>
    rw [taken, referenceSteps, sequencerRun_accept_other s rfl, Option.map_some, results_retireStep,
      results_after_hashmixA]
    rfl
  | seedgen =>
    have hsteps : referenceSteps s .seedgen = referenceSteps s.sampleTime .seedgen := rfl
    rw [taken, hsteps, sequencerRun_accept_seedgen, Option.map_some, results_retireStep, results_after_seedgen]
    rfl

/-- The same of the write of the command's word to an idle block, by what `exec` answers. -/
theorem results_run_of_exec {i : Instr} {s u t : State} (hb : s.status.busy = false) (hu : exec i s = .next u)
    (hrun : sequencerRun (referenceSteps s i) u = some t) : t.results = (s.afterCommand i).results := by
  rw [exec_idle hb] at hu
  cases hu
  have hresults := results_sequencerRun_taken i s
  rw [hrun] at hresults
  exact Option.some.inj hresults

/-- Settles O39: both ways leave the expansion of the digest that MIX commits. -/
theorem mixThenExpandEqualsHashmix : Obligations.MixThenExpandEqualsHashmix := by
  unfold Obligations.MixThenExpandEqualsHashmix
  intro s m e h s1 m' e1 h1 hb hs1 hm hb' hkept he1 he hh1 hh
  have hmix := results_run_of_exec hb hs1 hm
  have hexpand := results_run_of_exec hb' he1 he
  have hhashmix := results_run_of_exec hb hh1 hh
  have hdigest : m.digest = mix s.message s.seed := congrArg Prod.fst (hmix.trans (results_after_mix s))
  rw [results_after_expand, hkept, hdigest] at hexpand
  rw [results_after_hashmix] at hhashmix
  simp only [State.results, Prod.mk.injEq] at hexpand hhashmix
  obtain ⟨hed, -, hel, he0, he1, he2, he3⟩ := hexpand
  obtain ⟨hhd, -, hhl, hh0, hh1, hh2, hh3⟩ := hhashmix
  exact ⟨hed.trans hhd.symm, he0.trans hh0.symm, he1.trans hh1.symm, he2.trans hh2.symm, he3.trans hh3.symm,
    hel.trans hhl.symm, hmix⟩

/-! ### The expansion as bytes -/

/-- The byte view is the bytes of the four output registers, in their order (10_state.md R28). -/
theorem obBytes_eq_flatMap (s : State) : s.obBytes = (List.range 4).flatMap fun i => wordBytesOf (s.outWord i) := rfl

theorem outWord_holdingExpansion (d : Word) (s : State) {i : Nat} (hi : i < 4) :
    (s.holdingExpansion d).outWord i = expandWord d i := by
  have hi : i = 0 ∨ i = 1 ∨ i = 2 ∨ i = 3 := by omega
  rcases hi with rfl | rfl | rfl | rfl <;> rfl

theorem obBytes_holdingExpansion (d : Word) (s : State) : (s.holdingExpansion d).obBytes = expand d := by
  rw [obBytes_eq_flatMap, expand]
  exact List.flatMap_congr fun i hi => by rw [outWord_holdingExpansion d s (List.mem_range.mp hi)]

/-- The four MemWrites of 42_digest_expander.md R152 write the four output registers. -/
theorem memWrite_four (s : State) (v0 v1 v2 v3 : Word) :
    (s.memWrite 0 8 v0 |>.memWrite 8 8 v1 |>.memWrite 16 8 v2 |>.memWrite 24 8 v3) =
      { s with out0 := v0, out1 := v1, out2 := v2, out3 := v3 } := by
  have hwrite := memWriteIsTheOutRegisterWrite.2
  rw [(hwrite s v0).1, (hwrite _ v1).2.1, (hwrite _ v2).2.2.1, (hwrite _ v3).2.2.2]

theorem expand_length (d : Word) : (expand d).length = 32 := by simp [expand, List.length_flatMap]

theorem expandWord_zero (d : Word) : expandWord d 0 = d := by simp [expandWord, add64, mul64]

/-- The first word is the digest itself, so the digest can be read back from the bytes. -/
theorem leWord_take_expand (d : Word) : leWord ((expand d).take 8) = d := by
  have hfirst : (expand d).take 8 = wordBytesOf (expandWord d 0) := rfl
  rw [hfirst, leWord_wordBytesOf, expandWord_zero]

theorem expand_injective : Function.Injective expand := fun d1 d2 h => by
  rw [← leWord_take_expand d1, h, leWord_take_expand]

/-- Settles O50: the byte view and the four MemWrites, the length, the printed bytes, and the digest read back. -/
theorem expandIsThirtyTwoBytesAndInjective : Obligations.ExpandIsThirtyTwoBytesAndInjective := by
  unfold Obligations.ExpandIsThirtyTwoBytesAndInjective
  refine ⟨fun s d => ⟨obBytes_holdingExpansion d s, ?_⟩, expand_length, by decide, fun _ _ => expand_injective.ne⟩
  rw [memWrite_four]
  rfl

end Sys2Proof.Machine
end

section
/-! PROOFS. The SeedGenerator (43_time_seed_generator.md): the closed form of `seedgen` and its bijectivity (R173), and
SEEDGEN from accept to retirement (R174). -/

namespace Sys2Proof.Machine

/-! ### The pure function -/

/-- The sample is the one full word, and there is no tail (R172, R173). -/
theorem seedgen_eq (t : Word) : seedgen t = fmix (wordRound (initAcc Config.KSEED 8) t) := by
  rw [seedgen, mix_of_length_eq_eight (wordBytesOf_length t), leWord_wordBytesOf]

/-- The word round is symmetric in accumulator and word: it sees their xor only (41_mixer.md R123). -/
theorem wordRound_comm (a w : Word) : wordRound a w = wordRound w a := by
  have hxor : xor64 a w = xor64 w a := BitVec.xor_comm a w
  rw [wordRound, wordRound, hxor]

/-- The round is a bijection of the accumulator, so by its symmetry of the sample too. -/
theorem seedgen_bijective : Function.Bijective seedgen := by
  have hseedgen : seedgen = fmix ∘ fun t => wordRound t (initAcc Config.KSEED 8) :=
    funext fun t => by rw [seedgen_eq, wordRound_comm]; rfl
  rw [hseedgen]
  exact fmix_bijective.comp (wordRound_bijective _)

/-- The accumulator before the sample enters (R173). -/
theorem initAcc_kseed : initAcc Config.KSEED 8 = 0xe38f9bb36af82d47#64 := by decide

/-- Settles O49: one word round from a fixed accumulator, then the finaliser; each step is a bijection. -/
theorem seedgenClosedForm : Obligations.SeedgenClosedForm := by
  unfold Obligations.SeedgenClosedForm
  refine ⟨initAcc_kseed, fun t => ⟨rfl, ?_⟩, seedgen_bijective⟩
  rw [seedgen_eq, initAcc_kseed, wordRound, Config.rot1]

/-! ### The command -/

/-- The run of a SEEDGEN accepted from s retires with `seedgen` of the sample taken at accept in `ACC` (R174). -/
theorem sequencerRun_sampled_seedgen (s : State) :
    sequencerRun (referenceSteps s .seedgen) (s.sampleTime.accept .seedgen) =
      some (retireStep .seedgen
        ((s.sampleTime.accept .seedgen).advance (seedgen s.sample) (fullWords 8) .retire)) := by
  have hsteps : referenceSteps s .seedgen = referenceSteps s.sampleTime .seedgen := rfl
  have hts : s.sampleTime.ts = s.sample := rfl
  rw [hsteps, sequencerRun_accept_seedgen, hts]

/-- Settles O10: the accept takes the sample, and RETIRE commits it and the Mixer's result, whatever its value;
a variable stands for it, so that the kernel does not compute `mix`. -/
theorem seedgenAcceptsAndCommitsSeed : Obligations.SeedgenAcceptsAndCommitsSeed := by
  unfold Obligations.SeedgenAcceptsAndCommitsSeed
  intro s hb
  have hannounced (w : Word) (hw : s.timeIn = some w) : s.sample = w := by rw [State.sample, hw, Option.getD_some]
  obtain ⟨d, hd⟩ : ∃ d, d = seedgen s.sample := ⟨_, rfl⟩
  refine ⟨s.sampleTime.accept .seedgen, exec_idle hb, rfl, hannounced, d, fullWords 8, ?_⟩
  rw [sequencerRun_sampled_seedgen, ← hd, retireStep_accept (s := s.sampleTime) hb]
  rfl

end Sys2Proof.Machine
end

section
/-! PROOFS. The five commands as host writes (44_sequencer.md R186, R202): accepted at once by an idle block, dropped by
a busy one, with a frame either way; and the write to STATUS (R204). -/

namespace Sys2Proof.Machine

/-- Settles O11: an idle block takes the command. -/
theorem idleCommandIsAcceptedAtOnce : Obligations.IdleCommandIsAcceptedAtOnce := by
  unfold Obligations.IdleCommandIsAcceptedAtOnce
  intro i s hb
  rw [exec_idle hb]
  cases i <;> rfl

/-- Settles O12: a busy block answers every command with EBUSY. -/
theorem busyCommandIsDropped : Obligations.BusyCommandIsDropped := by
  unfold Obligations.BusyCommandIsDropped
  intro i s hb
  exact exec_busy hb

/-- Settles O13: the drop writes EBUSY alone; the accept writes `CUR`, PH and BUSY, after a SEEDGEN's sample. -/
theorem commandWriteFrame : Obligations.CommandWriteFrame := by
  unfold Obligations.CommandWriteFrame
  intro i s t h
  rw [exec_eq] at h
  cases h
  split
  · exact ⟨rfl, rfl, rfl, rfl, rfl, rfl, rfl, rfl, fun _ => rfl, fun _ => ⟨rfl, rfl, rfl⟩⟩
  · cases i with
    | seedgen => exact ⟨rfl, rfl, rfl, rfl, rfl, rfl, rfl, rfl, fun _ => rfl, fun hi => absurd rfl hi⟩
    | _ => exact ⟨rfl, rfl, rfl, rfl, rfl, rfl, rfl, rfl, fun _ => rfl, fun _ => ⟨rfl, rfl, rfl⟩⟩

/-- Settles O17: the write is `clearFlags`, idle or busy. -/
theorem statusWriteClearsFlags : Obligations.StatusWriteClearsFlags := by
  unfold Obligations.StatusWriteClearsFlags
  intro s v rest ha
  rw [(Moved.statusWrite v).step_eq (.inr ha)]
  simp only [State.clearFlags, and_not_eq_ite]

end Sys2Proof.Machine
end

section
/-! PROOFS. The sequencer's steps phase by phase (44_sequencer.md R187 to R196): what each writes, what none of them
changes (R206), and that no datum selects the path (R200). -/

namespace Sys2Proof.Machine

/-! ### The rules, read off `Sequenced` -/

/-- Settles O23: the Mixer's commands start from INIT on their operands, for SEEDGEN a constant; the other two go to
RETIRE. -/
theorem startStepByCommand : Obligations.StartStepByCommand := by
  unfold Obligations.StartStepByCommand
  intro s hb hp
  refine ⟨?_, fun hc => ?_, ?_⟩
  · rintro (hc | hc)
    · exact (Sequenced.startMixer .mix _ _ hp hc rfl).sequencerStep_eq hb
    · exact (Sequenced.startMixer .hashmix _ _ hp hc rfl).sequencerStep_eq hb
  · have hstart := Sequenced.startMixer .seedgen Config.KSEED 8 hp hc rfl
    rw [initAcc_kseed] at hstart
    exact hstart.sequencerStep_eq hb
  · rintro (hc | hc)
    · exact (Sequenced.startOther .expand hp hc rfl).sequencerStep_eq hb
    · exact (Sequenced.startOther .hashmixA hp hc rfl).sequencerStep_eq hb

/-- The number of tail bytes is 0 exactly when the three bits it is made of are. -/
theorem tailBytes_ne_zero_iff (len : Word) : tailBytes len ≠ 0 ↔ len &&& 7 ≠ 0 :=
  not_congr (BitVec.toNat_inj (y := 0#64))

/-- Settles O24: WORD below q, WORDS-EXIT at q, and WORD q times over from `IDX` 0. -/
theorem wordLoopRunsOncePerWord : Obligations.WordLoopRunsOncePerWord := by
  unfold Obligations.WordLoopRunsOncePerWord
  intro s c seed len hb hp hc ho
  refine ⟨fun hi => (Sequenced.word c seed len hp hc ho hi).sequencerStep_eq hb, fun hi => ?_, fun hi => ?_⟩
  · rw [(Sequenced.wordsExit c seed len hp hc ho hi).sequencerStep_eq hb, wordsExitStep]
    simp only [tailBytes_ne_zero_iff]
  · have hs : s.advance s.acc 0 .words = s := by rw [State.advance, ← hi, ← hp]
    have hrun := sequencerRun_words hb hc ho s.acc le_rfl
    rw [BitVec.ofNat_toNat, BitVec.setWidth_eq, hs, State.advance, ← hp] at hrun
    exact ⟨_, hrun⟩

/-- There is a tail word exactly for MIX and HASHMIX with a tail (20_memory.md R53). -/
theorem tailWord_isSome_iff_buffer {s : State} {c : Instr} :
    (s.tailWord c).isSome = true ↔ (c = .mix ∨ c = .hashmix) ∧ tailBytes s.len ≠ 0 := by
  rw [State.tailWord, Option.isSome_ite]

theorem phaseOk_of_coherent {s : State} (h : s.coherent = true) : s.phaseOk = true := by
  simp only [State.coherent, Bool.and_eq_true] at h
  exact h.1.1.2

theorem tailBytes_lt (len : Word) : tailBytes len < 8 := by
  rw [tailBytes_eq]
  omega

/-- In TAIL of a legal state `CUR` holds a command with a tail word (44_sequencer.md R190). -/
theorem tailWord_isSome_of_tail {s : State} (h : s.phaseOk = true) (hp : s.ph = .tail) :
    ∃ c, s.command = some c ∧ (s.tailWord c).isSome = true := by
  rw [State.phaseOk, hp] at h
  cases hc : s.command with
  | none => rw [hc] at h; cases h
  | some c => rw [hc] at h; exact ⟨c, rfl, h⟩

/-- Settles O25: the tail word of MIX and HASHMIX is the `r` bytes after the full words, and a legal state in TAIL has
one. -/
theorem tailStepAbsorbsTheTail : Obligations.TailStepAbsorbsTheTail := by
  unfold Obligations.TailStepAbsorbsTheTail
  intro s hb hp
  refine ⟨fun hc hlo _ => ?_, fun h => ?_⟩
  · have htail {c : Instr} (hm : c = .mix ∨ c = .hashmix) :
        s.tailWord c = some (s.memRead (8 * fullWords s.len) (tailBytes s.len)) := if_pos ⟨hm, by omega⟩
    rcases hc with hc | hc
    · exact (Sequenced.tail .mix _ hp hc (htail (.inl rfl))).sequencerStep_eq hb
    · exact (Sequenced.tail .hashmix _ hp hc (htail (.inr rfl))).sequencerStep_eq hb
  · obtain ⟨c, hc, ht⟩ := tailWord_isSome_of_tail (phaseOk_of_coherent h) hp
    obtain ⟨hm, hr⟩ := tailWord_isSome_iff_buffer.mp ht
    have := tailBytes_lt s.len
    rw [hc, Option.some_inj, Option.some_inj]
    exact ⟨hm, by omega, by omega⟩

/-! ### The accumulator at the end of the Mixer's run -/

/-- In RETIRE of MIX and HASHMIX `ACC` holds the digest of the message (41_mixer.md R135). -/
theorem State.Inv.acc_buffer {s : State} (h : s.Inv) (hb : s.status.busy = true) (hp : s.ph = .retire) {c : Instr}
    (hc : s.command = some c) (hm : c = .mix ∨ c = .hashmix) : s.acc = mix s.message s.seed := by
  have hacc := h.2 c _ _ hb hc (mixerOperands_buffer hm)
  rwa [State.expectedAcc, hp, fmix_accTail_buffer hm] at hacc

/-- In RETIRE of SEEDGEN `ACC` holds the seed made of the sample (43_time_seed_generator.md R173). -/
theorem State.Inv.acc_seedgen {s : State} (h : s.Inv) (hb : s.status.busy = true) (hp : s.ph = .retire)
    (hc : s.command = some .seedgen) : s.acc = seedgen s.ts := by
  have hacc := h.2 .seedgen _ _ hb hc rfl
  rwa [State.expectedAcc, hp, fmix_accTail_seedgen] at hacc

/-- Settles O26: the five rules; FIN5 keeps the invariant, which in RETIRE says what `ACC` holds. -/
theorem finaliserSteps : Obligations.FinaliserSteps := by
  unfold Obligations.FinaliserSteps
  intro s hb
  refine ⟨fun hp => (Sequenced.fin1 hp).sequencerStep_eq hb, fun hp => (Sequenced.fin2 hp).sequencerStep_eq hb,
    fun hp => (Sequenced.fin3 hp).sequencerStep_eq hb, fun hp => (Sequenced.fin4 hp).sequencerStep_eq hb,
    fun hp => (Sequenced.fin5 hp).sequencerStep_eq hb, fun hp h => ?_⟩
  have hinv : (finXor .retire s).Inv := (Sequenced.fin5 hp).inv h hb
  refine ⟨?_, fun hc => hinv.acc_seedgen hb rfl hc⟩
  rintro (hc | hc)
  · exact hinv.acc_buffer hb rfl hc (.inl rfl)
  · exact hinv.acc_buffer hb rfl hc (.inr rfl)

/-- Settles O27: RETIRE is `commit` of the command in `CUR`, then `finish`. -/
theorem retireCommitsByCommand : Obligations.RetireCommitsByCommand := by
  unfold Obligations.RetireCommitsByCommand
  intro s hb hp
  have hretire {c : Instr} (hc : s.command = some c) : sequencerStep s = some (retireStep c s) :=
    (Sequenced.retire c hp hc).sequencerStep_eq hb
  exact ⟨hretire, hretire, hretire, hretire, hretire⟩

/-! ### What the sequencer leaves alone -/

theorem Sequenced.sameOperands {s t : State} (h : Sequenced s t) : SameOperands s t := by
  cases h with
  | retire c hp hc => cases c <;> exact ⟨rfl, rfl, rfl, rfl, rfl⟩
  | _ => exact ⟨rfl, rfl, rfl, rfl, rfl⟩

/-- The sequencer raises and clears no error flag, and does not touch what stands around the block
(44_sequencer.md R206). -/
theorem Sequenced.surroundings {s t : State} (h : Sequenced s t) :
    t.status.eill = s.status.eill ∧ t.status.ebusy = s.status.ebusy ∧ t.timeIn = s.timeIn ∧ t.draws = s.draws ∧
      t.agenda = s.agenda ∧ t.reads = s.reads := by
  cases h with
  | retire c hp hc => cases c <;> exact ⟨rfl, rfl, rfl, rfl, rfl, rfl⟩
  | _ => exact ⟨rfl, rfl, rfl, rfl, rfl, rfl⟩

/-- A step of the sequencer is RETIRE's, or it leaves STATUS and the result registers alone. -/
theorem Sequenced.retire_or_keeps {s t : State} (h : Sequenced s t) :
    (∃ c, s.ph = .retire ∧ s.command = some c ∧ t = retireStep c s) ∨
      (s.ph ≠ .retire ∧ t.status = s.status ∧ t.results = s.results) := by
  cases h with
  | retire c hp hc => exact .inl ⟨c, hp, hc, rfl⟩
  | _ => exact .inr ⟨by simp [*], rfl, rfl⟩

/-- Settles O28: the operands and the surroundings are kept by every step, the results by every step but RETIRE. -/
theorem sequencerStepFrame : Obligations.SequencerStepFrame := by
  unfold Obligations.SequencerStepFrame
  intro s t hstep
  obtain ⟨-, h⟩ := sequencerStep_cases hstep
  obtain ⟨hcur, hseed, hlen, hts, hib⟩ := h.sameOperands
  obtain ⟨heill, hebusy, htime, hdraws, hagenda, hreads⟩ := h.surroundings
  refine ⟨hseed, hlen, hcur, hts, fun a => by rw [State.ibByte, hib, State.ibByte], heill, hebusy, htime, hdraws,
    hagenda, hreads, fun hp => ?_⟩
  obtain ⟨c, hretire, -, -⟩ | ⟨-, -, hresults⟩ := h.retire_or_keeps
  · exact absurd hretire hp
  · exact hresults

/-! ### No datum selects the path -/

/-- The two states agree in all that the choice of the next step looks at (44_sequencer.md R200). -/
structure SamePath (s u : State) : Prop where
  busy : u.status.busy = s.status.busy
  ph : u.ph = s.ph
  cur : u.cur = s.cur
  len : u.len = s.len
  idx : u.idx = s.idx

theorem SamePath.symm {s u : State} (h : SamePath s u) : SamePath u s :=
  ⟨h.busy.symm, h.ph.symm, h.cur.symm, h.len.symm, h.idx.symm⟩

theorem SamePath.command {s u : State} (h : SamePath s u) : u.command = s.command := command_congr h.cur

/-- Whether a command runs the Mixer does not depend on the state. -/
theorem mixerOperands_eq_none {s u : State} {c : Instr} (ho : s.mixerOperands c = none) :
    u.mixerOperands c = none := by
  cases c with
  | expand => rfl
  | hashmixA => rfl
  | _ => cases ho

/-- The length the Mixer runs on does not depend on the seed. -/
theorem SamePath.mixerOperands {s u : State} (h : SamePath s u) {c : Instr} {seed len : Word}
    (ho : s.mixerOperands c = some (seed, len)) : ∃ seed', u.mixerOperands c = some (seed', len) := by
  cases c with
  | mix => cases ho; exact ⟨u.seed, by rw [← h.len]; rfl⟩
  | hashmix => cases ho; exact ⟨u.seed, by rw [← h.len]; rfl⟩
  | seedgen => cases ho; exact ⟨Config.KSEED, rfl⟩
  | expand => cases ho
  | hashmixA => cases ho

theorem SamePath.tailWord {s u : State} (h : SamePath s u) {c : Instr} {w : Word} (ht : s.tailWord c = some w) :
    ∃ w', u.tailWord c = some w' := by
  have hs : (s.tailWord c).isSome = true := by rw [ht]; rfl
  rw [← Option.isSome_iff_exists, tailWord_isSome_iff_buffer, h.len]
  exact tailWord_isSome_iff_buffer.mp hs

/-- The phase, the index and BUSY a step leads to. -/
def State.path (t : State) : Phase × Word × Bool := (t.ph, t.idx, t.status.busy)

/-- The same rule applies to both, and leads to the same phase and index. -/
theorem Sequenced.samePath {s t u : State} (h : Sequenced s t) (hu : SamePath s u) :
    ∃ v, Sequenced u v ∧ v.path = t.path := by
  obtain ⟨busy, ph, -, -, idx⟩ := id hu
  have hcom := hu.command
  cases h with
  | startMixer c seed len hp hc ho =>
    obtain ⟨seed', ho'⟩ := hu.mixerOperands ho
    exact ⟨_, .startMixer c seed' len (ph.trans hp) (hcom.trans hc) ho', by simp [State.path, busy]⟩
  | startOther c hp hc ho =>
    exact ⟨_, .startOther c (ph.trans hp) (hcom.trans hc) (mixerOperands_eq_none ho), by simp [State.path, busy, idx]⟩
  | word c seed len hp hc ho hi =>
    obtain ⟨seed', ho'⟩ := hu.mixerOperands ho
    exact ⟨_, .word c seed' len (ph.trans hp) (hcom.trans hc) ho' (idx ▸ hi), by simp [State.path, busy, ph, idx]⟩
  | wordsExit c seed len hp hc ho hi =>
    obtain ⟨seed', ho'⟩ := hu.mixerOperands ho
    exact ⟨_, .wordsExit c seed' len (ph.trans hp) (hcom.trans hc) ho' (idx.trans hi),
      by simp [State.path, busy, idx]⟩
  | tail c w hp hc ht =>
    obtain ⟨w', ht'⟩ := hu.tailWord ht
    exact ⟨_, .tail c w' (ph.trans hp) (hcom.trans hc) ht', by simp [State.path, busy, idx]⟩
  | fin1 hp => exact ⟨_, .fin1 (ph.trans hp), by simp [State.path, busy, idx]⟩
  | fin2 hp => exact ⟨_, .fin2 (ph.trans hp), by simp [State.path, busy, idx]⟩
  | fin3 hp => exact ⟨_, .fin3 (ph.trans hp), by simp [State.path, busy, idx]⟩
  | fin4 hp => exact ⟨_, .fin4 (ph.trans hp), by simp [State.path, busy, idx]⟩
  | fin5 hp => exact ⟨_, .fin5 (ph.trans hp), by simp [State.path, busy, idx]⟩
  | retire c hp hc =>
    refine ⟨_, .retire c (ph.trans hp) (hcom.trans hc), ?_⟩
    cases c <;> simp [State.path, retireStep, commit, commitExpand, commitHashmix, idx]

theorem SamePath.sequencerStep {s t u : State} (hu : SamePath s u) (h : sequencerStep s = some t) :
    ∃ v, sequencerStep u = some v ∧ v.path = t.path := by
  obtain ⟨hb, hs⟩ := sequencerStep_cases h
  obtain ⟨v, hv, hpath⟩ := hs.samePath hu
  exact ⟨v, hv.sequencerStep_eq (hu.busy.trans hb), hpath⟩

/-- Settles O29: a step of the one is matched by a step of the other on the same path, and the other way round. -/
theorem dataNeverSelectsAPath : Obligations.DataNeverSelectsAPath := by
  unfold Obligations.DataNeverSelectsAPath
  intro s u hbusy hph hcur hlen hidx
  have hu : SamePath s u := ⟨hbusy.symm, hph.symm, hcur.symm, hlen.symm, hidx.symm⟩
  cases hs : sequencerStep s with
  | some t =>
    obtain ⟨v, hv, hpath⟩ := hu.sequencerStep hs
    rw [hv]
    exact congrArg some hpath.symm
  | none =>
    cases hv : sequencerStep u with
    | none => rfl
    | some v =>
      obtain ⟨t, ht, -⟩ := hu.symm.sequencerStep hv
      cases hs.symm.trans ht

end Sys2Proof.Machine
end

section
/-! PROOFS. A running command and the moves around it (44_sequencer.md R201 to R203): what every step keeps as long as
the block stays busy, what ends a command, and that a legal state has a step or refuses a store (70 R247). -/

namespace Sys2Proof.Machine

/-! ### What holds still while a command runs -/

/-- A move from a busy state to a busy state leaves the results, SEED, LEN, `CUR` and the sample alone. -/
theorem Moved.held {s t : State} {m : Move} (h : Moved s m t) (hb : s.status.busy = true) (ht : t.status.busy = true) :
    t.results = s.results ∧ t.seed = s.seed ∧ t.len = s.len ∧ t.cur = s.cur ∧ t.ts = s.ts := by
  cases h with
  | accepted v i hidle hd => cases hb.symm.trans hidle
  | idleWrite idx v h0 h1 hidle => cases hb.symm.trans hidle
  | reset => cases ht
  | turn _ _ hs =>
    obtain ⟨hcur, hseed, hlen, hts, -⟩ := hs.sameOperands
    obtain ⟨c, -, -, rfl⟩ | ⟨-, -, hresults⟩ := hs.retire_or_keeps
    · cases ht
    · exact ⟨hresults, hseed, hlen, hcur, hts⟩
  | _ => exact ⟨rfl, rfl, rfl, rfl, rfl⟩

/-- Settles O21: taking the move off the agenda touches none of these registers. -/
theorem registersHoldStillWhileBusy : Obligations.RegistersHoldStillWhileBusy := by
  unfold Obligations.RegistersHoldStillWhileBusy
  intro s t hb hstep ht
  obtain ⟨m, rest, -, hm⟩ := step_cases hstep
  exact hm.held hb ht

/-- A move from a busy state to an idle one is the reset event or the sequencer's turn in RETIRE. -/
theorem Moved.ends {s t : State} {m : Move} (h : Moved s m t) (hb : s.status.busy = true) (ht : t.status.busy = false) :
    m = .reset ∨ (m = .sequencer ∧ ∃ c, s.ph = .retire ∧ s.command = some c ∧ t = retireStep c s) := by
  cases h with
  | reset => exact .inl rfl
  | accepted v i hidle hd => cases hb.symm.trans hidle
  | idleWrite idx v h0 h1 hidle => cases hb.symm.trans hidle
  | turn _ _ hs =>
    obtain hretire | ⟨-, hstatus, -⟩ := hs.retire_or_keeps
    · exact .inr ⟨rfl, hretire⟩
    · rw [hstatus, hb] at ht
      cases ht
  | _ => cases hb.symm.trans ht

/-- A step to an idle block is the agenda's reset, or RETIRE on the state with the turn taken off the agenda. -/
theorem step_ends {s t : State} (hb : s.status.busy = true) (hstep : step s = .next t) (ht : t.status.busy = false) :
    (∃ rest, s.agenda = .reset :: rest) ∨
      ∃ c rest, (s.agenda = [] ∨ s.agenda = .sequencer :: rest) ∧ s.ph = .retire ∧ s.command = some c ∧
        t = retireStep c { s with agenda := rest } := by
  obtain ⟨m, rest, ha, hm⟩ := step_cases hstep
  obtain rfl | ⟨rfl, c, hp, hc, rfl⟩ := hm.ends hb ht
  · obtain ⟨-, -, h⟩ | ha := ha
    · cases h
    · exact .inl ⟨rest, ha⟩
  · exact .inr ⟨c, rest, ha.imp (fun h => h.1) id, hp, hc, rfl⟩

/-- Settles O22: the two ways a step can end a command, read off the step's own move. -/
theorem onlyRetireOrResetEndsACommand : Obligations.OnlyRetireOrResetEndsACommand := by
  unfold Obligations.OnlyRetireOrResetEndsACommand
  intro s t hb hstep ht
  obtain hreset | ⟨c, rest, ha, hp, -, -⟩ := step_ends hb hstep ht
  · exact .inl hreset
  · exact .inr ⟨hp, ha.imp id fun h => ⟨rest, h⟩⟩

/-- A move can only add turns of the sequencer to the agenda: `wait` repeats itself behind one (log 16). -/
theorem step_agenda_subset {s t : State} (hstep : step s = .next t) {x : Move} (hx : x ∈ t.agenda)
    (hne : x ≠ .sequencer) : x ∈ s.agenda := by
  obtain ⟨m, rest, ha, hm⟩ := step_cases hstep
  have hrest : x ∈ m :: rest → x ∈ s.agenda := by
    obtain ⟨-, rfl, rfl⟩ | ha := ha
    · intro h
      exact absurd (List.mem_singleton.mp h) hne
    · exact ha ▸ id
  apply hrest
  cases hm with
  | waitBusy hb => exact (List.mem_cons.mp hx).resolve_left hne
  | accepted v i hb hd => cases i <;> exact .tail _ hx
  | idleWrite idx v h0 h1 hb =>
    obtain e | e | e | e := writeReg_cases idx v { s with agenda := rest } <;> (rw [e] at hx; exact .tail _ hx)
  | turn _ hb hs =>
    obtain ⟨-, -, -, -, hagenda, -⟩ := hs.surroundings
    rw [hagenda] at hx
    exact .tail _ hx
  | _ => exact .tail _ hx

/-- No step from a legal busy state to a busy one changes a byte of the message of MIX or HASHMIX (70 R247). -/
theorem step_keeps_message {s t : State} (h : s.Inv) (hr : s.readsBuffer = true) (ht : t.status.busy = true)
    (hstep : step s = .next t) : ∀ x, x < s.len → t.ibByte x = s.ibByte x := by
  have hb : s.status.busy = true := by
    rw [State.readsBuffer, Bool.and_eq_true] at hr
    exact hr.1
  intro x hx
  obtain ⟨m, rest, -, hm⟩ := step_cases hstep
  cases hm with
  | accepted v i hidle hd => cases hb.symm.trans hidle
  | idleWrite idx v h0 h1 hidle => cases hb.symm.trans hidle
  | buffer a b hstore => exact ibByte_storeBuffer_below h.wf (fun e => hstore ⟨hr, e⟩) x hx
  | turn _ _ hs => rw [State.ibByte, hs.sameOperands.ib]; rfl
  | reset => cases ht
  | _ => rfl

theorem readsBuffer_iff {s : State} {c : Instr} (hb : s.status.busy = true) (hc : s.command = some c) :
    s.readsBuffer = true ↔ c = .mix ∨ c = .hashmix := by simp [State.readsBuffer, hb, hc]

/-! ### A legal state has a step -/

/-- In every phase but IDLE a legal state has a step enabled (44_sequencer.md section 3). -/
theorem exists_sequenced {s : State} (hok : s.phaseOk = true) (hp : s.ph ≠ .idle) : ∃ t, Sequenced s t := by
  cases hc : s.command with
  | none =>
    rw [State.phaseOk, hc] at hok
    cases h : s.ph <;> simp [h] at hok hp
  | some c =>
    cases h : s.ph with
    | idle => exact absurd h hp
    | start =>
      cases ho : s.mixerOperands c with
      | none => exact ⟨_, .startOther c h hc ho⟩
      | some o => exact ⟨_, .startMixer c o.1 o.2 h hc ho⟩
    | words =>
      cases ho : s.mixerOperands c with
      | none => simp [State.phaseOk, h, hc, ho] at hok
      | some o =>
        have hidx : s.idx ≤ fullWords o.2 := idx_le_of_words hok h hc ho
        by_cases hq : s.idx = fullWords o.2
        · exact ⟨_, .wordsExit c o.1 o.2 h hc ho hq⟩
        · exact ⟨_, .word c o.1 o.2 h hc ho (BitVec.lt_of_le_ne hidx hq)⟩
    | tail =>
      obtain ⟨c', hc', ht⟩ := tailWord_isSome_of_tail hok h
      obtain ⟨w, hw⟩ := Option.isSome_iff_exists.mp ht
      exact ⟨_, .tail c' w h hc' hw⟩
    | fin1 => exact ⟨_, .fin1 h⟩
    | fin2 => exact ⟨_, .fin2 h⟩
    | fin3 => exact ⟨_, .fin3 h⟩
    | fin4 => exact ⟨_, .fin4 h⟩
    | fin5 => exact ⟨_, .fin5 h⟩
    | retire => exact ⟨_, .retire c h hc⟩

/-- Every write of the host has an outcome, idle or busy. -/
theorem exists_moved_write (idx : BitVec 4) (v : Word) (s : State) : ∃ t, Moved s (.write idx v) t := by
  by_cases h1 : idx = 0x1
  · exact h1 ▸ ⟨_, .statusWrite v⟩
  cases hb : s.status.busy with
  | true => exact ⟨_, .busyWrite idx v h1 hb⟩
  | false =>
    by_cases h0 : idx = 0x0
    · cases hd : decode v with
      | ok i => exact h0 ▸ ⟨_, .accepted v i hb hd⟩
      | error e => exact h0 ▸ ⟨_, .illegal v e hb hd⟩
    · exact ⟨_, .idleWrite idx v h0 h1 hb⟩

/-- Only a store that changes the running command's message stops a legal block. -/
theorem exists_moved {s : State} (h : s.Inv) (m : Move) :
    (∃ t, Moved s m t) ∨ ∃ a b, m = .buffer a b ∧ s.readsBuffer = true ∧ a < s.len ∧ b ≠ s.ibByte a := by
  cases m with
  | write idx v => exact .inl (exists_moved_write idx v s)
  | read idx => exact .inl ⟨_, .read idx⟩
  | wait =>
    cases hb : s.status.busy with
    | true => exact .inl ⟨_, .waitBusy hb⟩
    | false => exact .inl ⟨_, .waitIdle hb⟩
  | sequencer =>
    cases hb : s.status.busy with
    | true =>
      obtain ⟨hbusy, hok, -⟩ := inv_iff.mp h
      obtain ⟨t, ht⟩ := exists_sequenced hok (hbusy.mp hb)
      exact .inl ⟨t, .turn t hb ht⟩
    | false => exact .inl ⟨_, .quiet hb⟩
  | stall => exact .inl ⟨_, .stall⟩
  | reset => exact .inl ⟨_, .reset⟩
  | buffer a b =>
    by_cases hr : s.readsBuffer = true ∧ a < s.len ∧ b ≠ s.ibByte a
    · exact .inr ⟨a, b, rfl, hr⟩
    · exact .inl ⟨_, .buffer a b hr⟩
  | clock v => exact .inl ⟨_, .clock v⟩

/-- A legal block answers a next state, or refuses the agenda's next store (70 R247, log 7). -/
theorem step_next_or_refused {s : State} (h : s.Inv) :
    (∃ t, step s = .next t) ∨
      step s = .refused .bufferChangedWhileBusy ∧
        ∃ a b rest, s.agenda = .buffer a b :: rest ∧ s.readsBuffer = true ∧ a < s.len ∧ b ≠ s.ibByte a := by
  cases ha : s.agenda with
  | nil =>
    obtain ⟨t, ht⟩ | ⟨a, b, hm, -⟩ := exists_moved (h.update rfl s.timeIn [] s.reads) .sequencer
    · exact .inl ⟨t, ht.step_eq (.inl ⟨ha, rfl, rfl⟩)⟩
    · cases hm
  | cons m rest =>
    obtain ⟨t, ht⟩ | ⟨a, b, rfl, hr⟩ := exists_moved (h.update rfl s.timeIn rest s.reads) m
    · exact .inl ⟨t, ht.step_eq (.inr ha)⟩
    · refine .inr ⟨?_, a, b, rest, rfl, hr⟩
      rw [step_cons ha]
      exact if_pos hr

end Sys2Proof.Machine
end

section
/-! PROOFS. Runs of a busy block (44_sequencer.md R197, R198): the reference schedule's length, that every busy run ends,
and what RETIRE commits at the end of it, whatever moves of the host interleave. -/

namespace Sys2Proof.Machine

/-! ### The reference schedule -/

/-- With the agenda used up the machine runs the sequencer (44_sequencer.md R197; log 9). -/
theorem core_run_of_sequencerRun {n : Nat} {s t : State} (ha : s.agenda = []) (h : sequencerRun n s = some t) :
    Host.Core.run core n s = .next t := by
  induction n generalizing s with
  | zero => cases h; rfl
  | succ n ih =>
    rw [sequencerRun_succ] at h
    obtain ⟨u, hu, h⟩ := Option.bind_eq_some_iff.mp h
    obtain ⟨hb, hs⟩ := sequencerStep_cases hu
    obtain ⟨-, -, -, -, hagenda, -⟩ := hs.surroundings
    rw [core_run_succ n (t := u) (by rw [step_nil ha]; exact (Moved.turn u hb hs).perform_eq)]
    exact ih (hagenda.trans ha) h

/-- Before the end of a run of the sequencer the block is busy. -/
theorem sequencerRun_busy {n m : Nat} {s t : State} (h : sequencerRun n s = some t) (hm : m < n) :
    ∃ u, sequencerRun m s = some u ∧ u.status.busy = true := by
  obtain ⟨k, rfl⟩ : ∃ k, n = m + (k + 1) := ⟨n - m - 1, by omega⟩
  rw [sequencerRun_add] at h
  obtain ⟨u, hu, h⟩ := Option.bind_eq_some_iff.mp h
  rw [sequencerRun_succ] at h
  obtain ⟨v, hv, -⟩ := Option.bind_eq_some_iff.mp h
  exact ⟨u, hu, (sequencerStep_cases hv).1⟩

/-- The reference schedule of an accepted command ends with its RETIRE. -/
theorem sequencerRun_taken (i : Instr) (s : State) :
    ∃ u, sequencerRun (referenceSteps s i) (taken i s) = some (retireStep i u) := by
  cases i with
  | mix => exact ⟨_, sequencerRun_accept_buffer (.inl rfl) s⟩
  | expand => exact ⟨_, sequencerRun_accept_other s rfl⟩
  | hashmix => exact ⟨_, sequencerRun_accept_buffer (.inr rfl) s⟩
  | hashmixA => exact ⟨_, sequencerRun_accept_other s rfl⟩
  | seedgen => exact ⟨_, sequencerRun_sampled_seedgen s⟩

theorem taken_agenda (i : Instr) (s : State) : (taken i s).agenda = s.agenda := by cases i <;> rfl

/-- Settles O31: the machine runs the reference schedule, which is busy before its end and idle after RETIRE. -/
theorem referenceStepCounts : Obligations.ReferenceStepCounts := by
  unfold Obligations.ReferenceStepCounts
  intro i s hb ha
  obtain ⟨u, hrun⟩ := sequencerRun_taken i s
  have htaken : (taken i s).agenda = [] := (taken_agenda i s).trans ha
  refine ⟨taken i s, exec_idle hb, ⟨_, core_run_of_sequencerRun htaken hrun, rfl⟩, fun m hm => ?_⟩
  obtain ⟨w, hw, hbusy⟩ := sequencerRun_busy hrun hm
  exact ⟨w, core_run_of_sequencerRun htaken hw, hbusy⟩

/-! ### What decreases along a busy run -/

/-- q of the running command, 0 for a command that does not run the Mixer. -/
def State.wordCount (s : State) : Nat :=
  match s.command.bind s.mixerOperands with
  | some (_, len) => (fullWords len).toNat
  | none => 0

/-- A bound on the steps the sequencer has still to take. -/
def State.stepsLeft (s : State) : Nat :=
  match s.ph with
  | .idle => 0
  | .retire => 1
  | .fin5 => 2
  | .fin4 => 3
  | .fin3 => 4
  | .fin2 => 5
  | .fin1 => 6
  | .tail => 7
  | .words => 8 + (s.wordCount - s.idx.toNat)
  | .start => 9 + s.wordCount

/-- The moves of a busy block before the sequencer's next turn: a `wait` gives it a turn after its read (log 16). -/
def movesBeforeTurn : List Move → Nat
  | [] => 0
  | .sequencer :: _ => 0
  | .wait :: _ => 1
  | _ :: rest => movesBeforeTurn rest + 1

theorem SameOperands.wordCount {s t : State} (h : SameOperands s t) : t.wordCount = s.wordCount := by
  have ho : t.mixerOperands = s.mixerOperands := funext h.mixerOperands
  rw [State.wordCount, State.wordCount, h.command, ho]

theorem wordCount_eq {s : State} {c : Instr} {seed len : Word} (hc : s.command = some c)
    (ho : s.mixerOperands c = some (seed, len)) : s.wordCount = (fullWords len).toNat := by
  rw [State.wordCount, hc, Option.bind_some, ho]

/-- Every rule of 44_sequencer.md R187 to R196 leaves fewer steps to take. -/
theorem Sequenced.stepsLeft_lt {s t : State} (h : Sequenced s t) : t.stepsLeft < s.stepsLeft := by
  have hcount := h.sameOperands.wordCount
  cases h with
  | startMixer c seed len hp hc ho => simp only [State.stepsLeft, hp, hcount]; omega
  | startOther c hp hc ho => simp only [State.stepsLeft, hp]; omega
  | word c seed len hp hc ho hi =>
    have hq := wordCount_eq hc ho
    have hlt : s.idx.toNat < (fullWords len).toNat := hi
    have hsucc : (s.idx + 1).toNat = s.idx.toNat + 1 :=
      BitVec.toNat_add_of_lt (by have := (fullWords len).isLt; change s.idx.toNat + 1 < 2 ^ 64; omega)
    simp only [State.stepsLeft, wordStep_ph, hp, wordStep_idx, hcount, hsucc]
    omega
  | wordsExit c seed len hp hc ho hi =>
    simp only [State.stepsLeft, wordsExitStep_ph, hp]
    split_ifs
    · show 7 < _
      omega
    · show 6 < _
      omega
  | retire c hp hc =>
    simp only [State.stepsLeft, hp]
    exact Nat.zero_lt_one
  | _ => simp [State.stepsLeft, *]

/-- A move other than the turn leaves the sequencer's work as it is and comes one move nearer to the turn. -/
theorem Moved.nearer {s t : State} {m : Move} (h : Moved s m t) (hb : s.status.busy = true) (ht : t.status.busy = true)
    (hm : m ≠ .sequencer) :
    t.stepsLeft = s.stepsLeft ∧ movesBeforeTurn t.agenda < movesBeforeTurn (m :: s.agenda) := by
  cases h with
  | accepted v i hidle hd => cases hb.symm.trans hidle
  | idleWrite idx v h0 h1 hidle => cases hb.symm.trans hidle
  | waitIdle hidle => cases hb.symm.trans hidle
  | reset => cases ht
  | turn _ _ hs => exact absurd rfl hm
  | quiet hidle => exact absurd rfl hm
  | waitBusy _ => exact ⟨rfl, Nat.zero_lt_one⟩
  | _ => exact ⟨rfl, Nat.lt_succ_self _⟩

/-- Along a busy run the pair of the steps left and the moves before the next turn falls in the lexicographic order. -/
theorem step_decreases {s t : State} (hb : s.status.busy = true) (hstep : step s = .next t) (ht : t.status.busy = true) :
    t.stepsLeft < s.stepsLeft ∨
      t.stepsLeft = s.stepsLeft ∧ movesBeforeTurn t.agenda < movesBeforeTurn s.agenda := by
  obtain ⟨m, rest, ha, hm⟩ := step_cases hstep
  by_cases hseq : m = .sequencer
  · subst hseq
    cases hm with
    | turn _ _ hs => exact .inl hs.stepsLeft_lt
    | quiet hidle => cases hb.symm.trans hidle
  · obtain ⟨-, -, h⟩ | ha := ha
    · exact absurd h hseq
    · rw [ha]
      exact .inr (hm.nearer hb ht hseq)

/-! ### Busy runs -/

/-- n steps of the machine through busy states only. -/
inductive BusyRun : Nat → State → State → Prop where
  | refl {s : State} (hb : s.status.busy = true) : BusyRun 0 s s
  | step {n : Nat} {s t u : State} (hb : s.status.busy = true) (h : step s = .next t) (hr : BusyRun n t u) :
      BusyRun (n + 1) s u

theorem BusyRun.busy_start {n : Nat} {s t : State} (h : BusyRun n s t) : s.status.busy = true := by
  cases h with
  | refl hb => exact hb
  | step hb _ _ => exact hb

theorem BusyRun.busy_end {n : Nat} {s t : State} (h : BusyRun n s t) : t.status.busy = true := by
  induction h with
  | refl hb => exact hb
  | step _ _ _ ih => exact ih

/-- The run of the machine up to the end of a busy run, and what follows it. -/
theorem BusyRun.run_add {n : Nat} {s t : State} (h : BusyRun n s t) (k : Nat) :
    Host.Core.run core (n + k) s = Host.Core.run core k t := by
  induction h with
  | refl _ => rw [Nat.zero_add]
  | step _ hstep _ ih => rw [Nat.add_right_comm, core_run_succ _ hstep, ih]

theorem BusyRun.run_eq {n : Nat} {s t : State} (h : BusyRun n s t) : Host.Core.run core n s = .next t := h.run_add 0

theorem BusyRun.busy_at {n : Nat} {s t : State} (h : BusyRun n s t) :
    ∀ m ≤ n, ∃ w, Host.Core.run core m s = .next w ∧ w.status.busy = true := by
  induction h with
  | refl hb => exact fun m hm => ⟨_, by rw [Nat.le_zero.mp hm]; rfl, hb⟩
  | step hb hstep _ ih =>
    intro m hm
    cases m with
    | zero => exact ⟨_, rfl, hb⟩
    | succ m =>
      rw [core_run_succ m hstep]
      exact ih m (by omega)

/-- What every step between busy states keeps holds at the end of a busy run. -/
theorem BusyRun.keeps {P : State → Prop}
    (hP : ∀ {s t : State}, s.status.busy = true → t.status.busy = true → Machine.step s = .next t → P s → P t)
    {n : Nat} {s t : State} (h : BusyRun n s t) (hs : P s) : P t := by
  induction h with
  | refl _ => exact hs
  | step hb hstep hr ih => exact ih (hP hb hr.busy_start hstep hs)

/-- No busy run goes on for ever: there is a busy state after which no step leads to a busy one. -/
theorem exists_last_busy (s : State) (hb : s.status.busy = true) :
    ∃ n t, BusyRun n s t ∧ ∀ u, step t = .next u → u.status.busy = false := by
  by_cases h : ∃ u, step s = .next u ∧ u.status.busy = true
  · obtain ⟨u, hstep, hu⟩ := h
    have hdec := step_decreases hb hstep hu
    obtain ⟨n, t, hr, hlast⟩ := exists_last_busy u hu
    exact ⟨n + 1, t, .step hb hstep hr, hlast⟩
  · refine ⟨0, s, .refl hb, fun u hstep => ?_⟩
    by_contra hu
    exact h ⟨u, hstep, by simpa using hu⟩
termination_by (s.stepsLeft, movesBeforeTurn s.agenda)
decreasing_by
  rw [Prod.lex_def]
  exact hdec

/-! ### Every running command retires -/

theorem reset_notMem_step {s t : State} (hstep : step s = .next t) (h : Move.reset ∉ s.agenda) :
    Move.reset ∉ t.agenda := fun ht => h (step_agenda_subset hstep ht nofun)

/-- A busy step leaves harmless stores harmless: neither LEN nor a byte of the message changes. -/
theorem storesHarmless_step {s t : State} (hb : s.status.busy = true) (ht : t.status.busy = true)
    (hstep : step s = .next t) (hinv : s.Inv) (h : s.storesHarmless) : t.storesHarmless := by
  obtain ⟨-, -, hlen, hcur, -⟩ := registersHoldStillWhileBusy s t hb hstep ht
  have hreads : t.readsBuffer = s.readsBuffer := by
    rw [State.readsBuffer, State.readsBuffer, ht, hb, command_congr hcur]
  intro hr a b hmem
  rw [hreads] at hr
  rw [hlen]
  have hold := h hr a b (step_agenda_subset hstep hmem nofun)
  by_cases ha : s.len ≤ a
  · exact .inl ha
  · rw [step_keeps_message hinv hr ht hstep a (BitVec.not_le.mp ha)]
    exact .inr (hold.resolve_left ha)

theorem BusyRun.inv {n : Nat} {s t : State} (h : BusyRun n s t) (hinv : s.Inv) : t.Inv :=
  h.keeps (fun _ _ hstep hs => stepKeepsInvariant _ _ hs hstep) hinv

theorem BusyRun.reset_notMem {n : Nat} {s t : State} (h : BusyRun n s t) (hreset : Move.reset ∉ s.agenda) :
    Move.reset ∉ t.agenda :=
  h.keeps (P := fun s => Move.reset ∉ s.agenda) (fun _ _ hstep => reset_notMem_step hstep) hreset

theorem BusyRun.storesHarmless {n : Nat} {s t : State} (h : BusyRun n s t) (hinv : s.Inv) (hs : s.storesHarmless) :
    t.storesHarmless := by
  have hlegal := h.keeps (P := fun s => s.Inv ∧ s.storesHarmless)
    (fun hb ht hstep ⟨hi, hs⟩ => ⟨stepKeepsInvariant _ _ hi hstep, storesHarmless_step hb ht hstep hi hs⟩) ⟨hinv, hs⟩
  exact hlegal.2

/-- From a legal state no harmless store is refused. -/
theorem step_next_of_storesHarmless {s : State} (hinv : s.Inv) (h : s.storesHarmless) : ∃ t, step s = .next t := by
  obtain hnext | ⟨-, a, b, rest, ha, hr, hlt, hne⟩ := step_next_or_refused hinv
  · exact hnext
  · obtain hle | heq := h hr a b (by rw [ha]; exact .head _)
    · exact absurd hlt (BitVec.not_lt.mpr hle)
    · exact absurd heq hne

theorem core_run_refused {s : State} {r : Refusal} (h : step s = .refused r) :
    Host.Core.run core 1 s = .refused r := first core h
where
  first (M : Host.Core) {s : M.State} {r : M.Refusal} (h : M.step s = .refused r) : M.run 1 s = .refused r := by
    rw [Host.Core.run, h]

/-- A busy run from which a step leads to an idle block, with no reset to come, ends with RETIRE. -/
theorem BusyRun.retiresAfter {n : Nat} {s t u : State} (h : BusyRun n s t) (hreset : Move.reset ∉ t.agenda)
    (hstep : Machine.step t = .next u) (hu : u.status.busy = false) : s.retiresAfter n := by
  obtain ⟨rest, ha⟩ | ⟨c, rest, -, hp, hc, rfl⟩ := step_ends h.busy_end hstep hu
  · exact absurd (by rw [ha]; exact .head _) hreset
  · have hretire : Sequenced { t with agenda := rest } (retireStep c { t with agenda := rest }) := .retire c hp hc
    exact ⟨h.busy_at, t, _, rest, h.run_eq, hp, hstep, hretire.sequencerStep_eq h.busy_end, hu⟩

/-- Settles O32: the busy run ends; its last state is legal, so its step retires, resets, or refuses a store. -/
theorem everyBusyBlockRetires : Obligations.EveryBusyBlockRetires := by
  unfold Obligations.EveryBusyBlockRetires
  intro s hinv hb
  obtain ⟨n, t, hrun, hlast⟩ := exists_last_busy s hb
  have hnext (h : s.storesHarmless) : ∃ u, step t = .next u :=
    step_next_of_storesHarmless (hrun.inv hinv) (hrun.storesHarmless hinv h)
  refine ⟨fun hreset => ?_, fun hreset h => ?_, fun h => ?_⟩
  · obtain ⟨u, hu⟩ | ⟨hrefused, -⟩ := step_next_or_refused (hrun.inv hinv)
    · exact ⟨n, .inl (hrun.retiresAfter (hrun.reset_notMem hreset) hu (hlast u hu))⟩
    · exact ⟨n + 1, .inr ((hrun.run_add 1).trans (core_run_refused hrefused))⟩
  · obtain ⟨u, hu⟩ := hnext h
    exact ⟨n, hrun.retiresAfter (hrun.reset_notMem hreset) hu (hlast u hu)⟩
  · obtain ⟨u, hu⟩ := hnext h
    exact ⟨n + 1, u, (hrun.run_add 1).trans (core_run_succ 0 hu), hlast u hu⟩

/-! ### What an interleaved command commits -/

/-- The block runs command i, which the idle state s accepted: its operands and the results are as they were there. -/
structure Running (i : Instr) (s u : State) : Prop where
  inv : u.Inv
  noReset : Move.reset ∉ u.agenda
  command : u.command = some i
  results : u.results = s.results
  seed : u.seed = s.seed
  len : u.len = s.len
  message : i = .mix ∨ i = .hashmix → u.message = s.message
  sample : i = .seedgen → u.ts = s.sample

theorem running_taken {i : Instr} {s : State} (hinv : s.Inv) (hreset : Move.reset ∉ s.agenda) :
    Running i s (taken i s) := by
  have hcommand : (taken i s).command = some i := by cases i <;> exact command_accept _ _
  have hmessage : (taken i s).message = s.message := by cases i <;> rfl
  have hframe : (taken i s).results = s.results ∧ (taken i s).seed = s.seed ∧ (taken i s).len = s.len := by
    cases i <;> exact ⟨rfl, rfl, rfl⟩
  obtain ⟨hresults, hseed, hlen⟩ := hframe
  exact ⟨hinv.taken i, by rwa [taken_agenda], hcommand, hresults, hseed, hlen, fun _ => hmessage, fun hi => hi ▸ rfl⟩

/-- Every step between busy states keeps the command running on its operands. -/
theorem Running.of_step {i : Instr} {s u v : State} (h : Running i s u) (hb : u.status.busy = true)
    (hv : v.status.busy = true) (hstep : step u = .next v) : Running i s v := by
  obtain ⟨hresults, hseed, hlen, hcur, hts⟩ := registersHoldStillWhileBusy u v hb hstep hv
  refine ⟨stepKeepsInvariant _ _ h.inv hstep, reset_notMem_step hstep h.noReset, (command_congr hcur).trans h.command,
    hresults.trans h.results, hseed.trans h.seed, hlen.trans h.len, fun hm => ?_, fun hi => hts.trans (h.sample hi)⟩
  have hr : u.readsBuffer = true := (readsBuffer_iff hb h.command).mpr hm
  exact (message_below hlen (step_keeps_message h.inv hr hv hstep)).trans (h.message hm)

/-- RETIRE of the running command leaves what the command's rule says of the operands at accept. -/
theorem Running.results_retireStep {i : Instr} {s u : State} (h : Running i s u) (hb : u.status.busy = true)
    (hp : u.ph = .retire) : (retireStep i u).results = (s.afterCommand i).results := by
  have hresults := h.results
  simp only [State.results, Prod.mk.injEq] at hresults
  obtain ⟨hdigest, htime, houtlen, hout0, hout1, hout2, hout3⟩ := hresults
  have hacc (hm : i = .mix ∨ i = .hashmix) : u.acc = mix s.message s.seed := by
    rw [h.inv.acc_buffer hb hp h.command hm, h.message hm, h.seed]
  rw [Machine.results_retireStep]
  cases i with
  | mix => rw [results_after_mix, hacc (.inl rfl), htime, houtlen, hout0, hout1, hout2, hout3]
  | expand => rw [results_after_expand, hdigest, htime]
  | hashmix => rw [results_after_hashmix, hacc (.inr rfl), htime]
  | hashmixA => rw [results_after_hashmixA, hdigest, htime, hout0, hout1, hout2, hout3]
  | seedgen =>
    rw [results_after_seedgen, h.inv.acc_seedgen hb hp h.command, h.sample rfl, houtlen, hout0, hout1, hout2, hout3]

/-- The step that ends the command is RETIRE's, there being no reset. -/
theorem Running.ends {i : Instr} {s u t : State} (h : Running i s u) (hb : u.status.busy = true)
    (hstep : step u = .next t) (ht : t.status.busy = false) :
    t.results = (s.afterCommand i).results ∧ t.seed = s.seed ∧ t.len = s.len := by
  obtain ⟨rest, ha⟩ | ⟨c, rest, -, hp, hc, rfl⟩ := step_ends hb hstep ht
  · exact absurd (by rw [ha]; exact .head _) h.noReset
  · obtain rfl : c = i := Option.some.inj (hc.symm.trans h.command)
    have hretire : Sequenced { u with agenda := rest } (retireStep c { u with agenda := rest }) := .retire c hp hc
    have hops := hretire.sameOperands
    have hresults : (retireStep c { u with agenda := rest }).results = (retireStep c u).results := by
      rw [Machine.results_retireStep, Machine.results_retireStep]
    exact ⟨hresults.trans (h.results_retireStep hb hp), hops.seed.trans h.seed, hops.len.trans h.len⟩

/-- The first idle state of the run is the one its last busy state retires to. -/
theorem Running.commits {i : Instr} {s u t : State} {n : Nat} (h : Running i s u) (hb : u.status.busy = true)
    (hrun : Host.Core.run core n u = .next t)
    (hbusy : ∀ m < n, ∀ w, Host.Core.run core m u = .next w → w.status.busy = true)
    (ht : t.status.busy = false) :
    t.results = (s.afterCommand i).results ∧ t.seed = s.seed ∧ t.len = s.len := by
  induction n generalizing u with
  | zero =>
    cases hrun
    cases hb.symm.trans ht
  | succ n ih =>
    obtain ⟨v, hstep, hrun⟩ := core_run_cases hrun
    cases hv : v.status.busy with
    | true =>
      exact ih (h.of_step hb hv hstep) hv hrun
        (fun m hm w hw => hbusy (m + 1) (by omega) w ((core_run_succ m hstep).trans hw))
    | false =>
      cases n with
      | zero => cases hrun; exact h.ends hb hstep hv
      | succ n =>
        cases hv.symm.trans (hbusy 1 (by omega) v (core_run_succ 0 hstep))

/-- Settles O33: the accepted command runs on its operands until RETIRE. -/
theorem interleavedCommandCommitsItsFunction : Obligations.InterleavedCommandCommitsItsFunction := by
  unfold Obligations.InterleavedCommandCommitsItsFunction
  intro i s s1 t n hinv hb hreset hexec hrun hbusy ht
  rw [exec_idle hb] at hexec
  cases hexec
  exact (running_taken hinv hreset).commits (by cases i <;> rfl) hrun hbusy ht

end Sys2Proof.Machine
end

section
/-! PROOFS. The error flags and the absence of faults (60_exceptions.md R215, R218 to R223): everything a step can do to
EILL and EBUSY said once, what sets and clears each flag read off it, and that no step from a legal state faults. -/

namespace Sys2Proof.Machine

/-! ### What a step can do to EILL and EBUSY -/

/-- How EILL and EBUSY of a step's answer come from the ones before it: the two error events (60_exceptions.md R218,
R219), write-1-to-clear (44_sequencer.md R204), reset (70_reset_and_hazards.md R240), or no change. -/
inductive ErrorFlags (s t : State) : Prop where
  | kept (he : t.status.eill = s.status.eill) (hb : t.status.ebusy = s.status.ebusy)
  | cleared (v : Word) (rest : List Move) (ha : s.agenda = .write 0x1 v :: rest)
      (he : t.status.eill = (s.status.eill && !v.getLsbD 1)) (hb : t.status.ebusy = (s.status.ebusy && !v.getLsbD 2))
  | reset (rest : List Move) (ha : s.agenda = .reset :: rest) (he : t.status.eill = false) (hb : t.status.ebusy = false)
  | illegal (v : Word) (rest : List Move) (ha : s.agenda = .write 0x0 v :: rest) (hidle : s.status.busy = false)
      (hv : ∀ i, v ≠ encodeWrite i) (he : t.status.eill = true) (hb : t.status.ebusy = s.status.ebusy)
  | dropped (idx : BitVec 4) (v : Word) (rest : List Move) (ha : s.agenda = .write idx v :: rest) (hi : idx ≠ 0x1)
      (hbusy : s.status.busy = true) (he : t.status.eill = s.status.eill) (hb : t.status.ebusy = true)

theorem writeReg_status (idx : BitVec 4) (v : Word) (s : State) : (s.writeReg idx v).status = s.status := by
  obtain e | e | e | e := writeReg_cases idx v s <;> rw [e]

theorem ne_encodeWrite_of_decode_error {v : Word} {e : Illegal} (hd : decode v = .error e) (i : Instr) :
    v ≠ encodeWrite i := by
  rintro rfl
  cases (decode_encodeWrite i).symm.trans hd

/-- The block itself writes no error flag, neither at an accept nor in the sequencer's turn. -/
theorem step_errorFlags {s t : State} (hstep : step s = .next t) : ErrorFlags s t := by
  obtain ⟨m, rest, ha, hm⟩ := step_cases hstep
  have hnext (h : m ≠ .sequencer) : s.agenda = m :: rest := ha.resolve_left fun e => h e.2.2
  cases hm with
  | statusWrite v => exact .cleared v rest (hnext nofun) rfl rfl
  | busyWrite idx v hi hb => exact .dropped idx v rest (hnext nofun) hi hb rfl rfl
  | accepted v i hb hd => cases i <;> exact .kept rfl rfl
  | illegal v e hb hd => exact .illegal v rest (hnext nofun) hb (ne_encodeWrite_of_decode_error hd) rfl rfl
  | idleWrite idx v h0 h1 hb => exact .kept (by rw [writeReg_status]) (by rw [writeReg_status])
  | turn _ hb hs =>
    obtain ⟨heill, hebusy, -⟩ := hs.surroundings
    exact .kept heill hebusy
  | reset => exact .reset rest (hnext nofun) rfl rfl
  | _ => exact .kept rfl rfl

/-! ### Each flag is set by its event and sticky -/

/-- EILL is cleared by the host's write to STATUS or by reset (60_exceptions.md R218, R223). -/
theorem ErrorFlags.eill_cleared {s t : State} (h : ErrorFlags s t) (hs : s.status.eill = true)
    (ht : t.status.eill = false) :
    (∃ v rest, s.agenda = .write 0x1 v :: rest ∧ v.getLsbD 1 = true) ∨ ∃ rest, s.agenda = .reset :: rest := by
  cases h with
  | cleared v rest ha he => exact .inl ⟨v, rest, ha, by simpa [he, hs] using ht⟩
  | reset rest ha => exact .inr ⟨rest, ha⟩
  | illegal _ _ _ _ _ he => cases he.symm.trans ht
  | kept he | dropped _ _ _ _ _ _ he => cases hs.symm.trans (he.symm.trans ht)

/-- EBUSY is cleared by the host's write to STATUS or by reset (60_exceptions.md R219, R223). -/
theorem ErrorFlags.ebusy_cleared {s t : State} (h : ErrorFlags s t) (hs : s.status.ebusy = true)
    (ht : t.status.ebusy = false) :
    (∃ v rest, s.agenda = .write 0x1 v :: rest ∧ v.getLsbD 2 = true) ∨ ∃ rest, s.agenda = .reset :: rest := by
  cases h with
  | cleared v rest ha _ hb => exact .inl ⟨v, rest, ha, by simpa [hb, hs] using ht⟩
  | reset rest ha => exact .inr ⟨rest, ha⟩
  | dropped _ _ _ _ _ _ _ hb => cases hb.symm.trans ht
  | kept _ hb | illegal _ _ _ _ _ _ hb => cases hs.symm.trans (hb.symm.trans ht)

/-- Settles O14: the event is the illegal write's case of `Moved`. -/
theorem illegalWordSetsEill : Obligations.IllegalWordSetsEill := by
  unfold Obligations.IllegalWordSetsEill
  refine ⟨fun s v rest ha hb hv => ?_, fun s t hstep => (step_errorFlags hstep).eill_cleared⟩
  obtain ⟨e, he⟩ := decode_error_of_ne hv
  exact Moved.step_eq (.inr ha) (.illegal v e hb he)

/-- Settles O15: the event is the busy write's case of `Moved`. -/
theorem writeWhileBusySetsEbusy : Obligations.WriteWhileBusySetsEbusy := by
  unfold Obligations.WriteWhileBusySetsEbusy
  exact ⟨fun s idx v rest ha hb hi => Moved.step_eq (.inr ha) (.busyWrite idx v hi hb),
    fun s t hstep => (step_errorFlags hstep).ebusy_cleared⟩

/-! ### Nothing else raises a flag -/

theorem ErrorFlags.eill_raised {s t : State} (h : ErrorFlags s t) (hs : s.status.eill = false)
    (ht : t.status.eill = true) :
    ∃ v rest, s.agenda = .write 0x0 v :: rest ∧ s.status.busy = false ∧ ∀ i, v ≠ encodeWrite i := by
  cases h with
  | illegal v rest ha hidle hv => exact ⟨v, rest, ha, hidle, hv⟩
  | cleared _ _ _ he => simp [he, hs] at ht
  | reset _ _ he => cases he.symm.trans ht
  | kept he | dropped _ _ _ _ _ _ he => cases hs.symm.trans (he.symm.trans ht)

theorem ErrorFlags.ebusy_raised {s t : State} (h : ErrorFlags s t) (hs : s.status.ebusy = false)
    (ht : t.status.ebusy = true) :
    ∃ idx v rest, s.agenda = .write idx v :: rest ∧ s.status.busy = true ∧ idx ≠ 0x1 := by
  cases h with
  | dropped idx v rest ha hi hbusy => exact ⟨idx, v, rest, ha, hbusy, hi⟩
  | cleared _ _ _ _ hb => simp [hb, hs] at ht
  | reset _ _ _ hb => cases hb.symm.trans ht
  | kept _ hb | illegal _ _ _ _ _ _ hb => cases hs.symm.trans (hb.symm.trans ht)

/-- Settles O16: of the cases of `ErrorFlags`, only the two error events turn a flag from 0 to 1. -/
theorem nothingElseRaisesAFlag : Obligations.NothingElseRaisesAFlag := by
  unfold Obligations.NothingElseRaisesAFlag
  exact fun s t hstep => ⟨(step_errorFlags hstep).eill_raised, (step_errorFlags hstep).ebusy_raised⟩

/-! ### A legal state does not fault -/

theorem ph_ne_idle_of_coherent {s : State} (h : s.coherent = true) (hb : s.status.busy = true) : s.ph ≠ .idle := by
  simp only [State.coherent, Bool.and_eq_true, hb, beq_iff_eq] at h
  exact bne_iff_ne.mp h.1.1.1.symm

/-- The one place a fault can come from: in a legal busy state the sequencer has a step (44_sequencer.md section 3). -/
theorem sequencerMove_next {s : State} (h : s.coherent = true) : ∃ t, sequencerMove s = .next t := by
  cases hb : s.status.busy with
  | false => exact ⟨s, (Moved.quiet hb).perform_eq⟩
  | true =>
    obtain ⟨t, ht⟩ := exists_sequenced (phaseOk_of_coherent h) (ph_ne_idle_of_coherent h hb)
    exact ⟨t, (Moved.turn t hb ht).perform_eq⟩

/-- Every other move answers a next state or, for a store, a refusal. -/
theorem perform_ne_fault {s : State} (h : s.coherent = true) (m : Move) (f : Fault) : perform m s ≠ .fault f := by
  intro hf
  cases m with
  | sequencer =>
    obtain ⟨t, ht⟩ := sequencerMove_next h
    cases ht.symm.trans hf
  | write idx v =>
    obtain ⟨t, ht⟩ := exists_moved_write idx v s
    cases ht.perform_eq.symm.trans hf
  | buffer a b =>
    rw [perform, hostBuffer] at hf
    split at hf <;> cases hf
  | read | wait | stall | reset | clock => cases hf

/-- Settles O36: taking the move off the agenda leaves a legal state legal. -/
theorem legalStatesNeverFault : Obligations.LegalStatesNeverFault := by
  unfold Obligations.LegalStatesNeverFault
  intro s f h
  cases ha : s.agenda with
  | nil =>
    rw [step_nil ha]
    exact perform_ne_fault h .sequencer f
  | cons m rest =>
    have hrest : State.coherent { s with agenda := rest } = true := h
    rw [step_cons ha]
    exact perform_ne_fault hrest m f

end Sys2Proof.Machine
end

section
/-! PROOFS. The buffer hazard and the reset event (70_reset_and_hazards.md R240, R241, R247): which host stores are
refused and what the others do, that no other move is refused, and what a reset leaves at any instant. -/

namespace Sys2Proof.Machine

/-! ### Stores into the message of a running command -/

/-- Being MIX or HASHMIX between accept and retire, in the words of 70_reset_and_hazards.md R247. -/
theorem readsBuffer_eq_true_iff {s : State} :
    s.readsBuffer = true ↔ s.status.busy = true ∧ (s.command = some .mix ∨ s.command = some .hashmix) := by
  simp [State.readsBuffer]

/-- A store that changes a byte of the running command's message is refused (70 R247, log 7). -/
theorem step_store_refused {s : State} {a : Word} {b : Byte} {rest : List Move} (ha : s.agenda = .buffer a b :: rest)
    (hr : s.readsBuffer = true ∧ a < s.len ∧ b ≠ s.ibByte a) : step s = .refused .bufferChangedWhileBusy :=
  (step_cons ha).trans (if_pos hr)

/-- Every other store happens. -/
theorem step_store_next {s : State} {a : Word} {b : Byte} {rest : List Move} (ha : s.agenda = .buffer a b :: rest)
    (hr : ¬(s.readsBuffer = true ∧ a < s.len ∧ b ≠ s.ibByte a)) :
    step s = .next (State.storeBuffer a b { s with agenda := rest }) :=
  Moved.step_eq (.inr ha) (.buffer a b hr)

theorem sequencerMove_ne_refused (s : State) (r : Refusal) : sequencerMove s ≠ .refused r := by
  intro h
  rw [sequencerMove] at h
  split at h
  · split at h <;> cases h
  · cases h

/-- The one move that can be refused is a store: a write of the host always has an outcome, the rest answer at once. -/
theorem perform_refused {m : Move} {s : State} {r : Refusal} (h : perform m s = .refused r) :
    r = .bufferChangedWhileBusy ∧ ∃ a b, m = .buffer a b := by
  cases m with
  | buffer a b =>
    rw [perform, hostBuffer] at h
    split at h
    · cases h; exact ⟨rfl, a, b, rfl⟩
    · cases h
  | write idx v =>
    obtain ⟨t, ht⟩ := exists_moved_write idx v s
    cases ht.perform_eq.symm.trans h
  | sequencer => exact absurd h (sequencerMove_ne_refused s r)
  | read | wait | stall | reset | clock => cases h

theorem step_refused {s : State} {r : Refusal} (h : step s = .refused r) :
    r = .bufferChangedWhileBusy ∧ ∃ a b rest, s.agenda = .buffer a b :: rest := by
  cases ha : s.agenda with
  | nil => exact absurd (step_nil ha ▸ h) (sequencerMove_ne_refused s r)
  | cons m rest =>
    obtain ⟨hr, a, b, rfl⟩ := perform_refused (step_cons ha ▸ h)
    exact ⟨hr, a, b, rest, rfl⟩

/-- Settles O37: the model's store is refused on exactly R247's condition; its effect is that of the buffer's laws. -/
theorem bufferChangeWhileHashingIsRefused : Obligations.BufferChangeWhileHashingIsRefused := by
  unfold Obligations.BufferChangeWhileHashingIsRefused
  refine ⟨fun s a b rest ha => ?_, fun s r => step_refused⟩
  rw [← and_assoc, ← readsBuffer_eq_true_iff]
  exact ⟨step_store_refused ha, fun hr =>
    ⟨step_store_next ha hr, fun x hx => ibByte_storeBuffer_ne hx,
      fun hw => ⟨ibByte_storeBuffer_same hw, Memory.wf_write hw⟩⟩⟩

/-! ### The reset event -/

/-- Settles O53: the reset move is `State.rst`, whose hidden registers are the free values of this draw (log 3, 5). -/
theorem resetEventAtAnyInstant : Obligations.ResetEventAtAnyInstant := by
  unfold Obligations.ResetEventAtAnyInstant
  intro s rest ha
  exact ⟨Config.resetAcc s.draws, Config.resetIdx s.draws, Config.resetCur s.draws, Config.resetTs s.draws,
    Moved.reset.step_eq (.inr ha)⟩

end Sys2Proof.Machine
end
